-- ==== Sys2Proof/Word.lean ====
section
/-! DEFINITION. The word types of the station: the bytes of the fibre, the widths of its registers, and the small index
types by which the manual numbers stations, cameras, blocks and EEPROM words (spec/00_scope.md, 0.4). -/
namespace Sys2Proof

/-- One data character of the fibre. -/
abbrev Byte := BitVec 8

/-- A 16-bit register or field. -/
abbrev Word16 := BitVec 16

/-- A 32-bit register or event counter. -/
abbrev Word32 := BitVec 32

/-- A station time: 100 ns units, wrapping at 2^32 (R2). -/
abbrev Time := BitVec 32

/-- A reference coordinate, 0 to 2^48 - 1 su (Table 0.3). -/
abbrev Coord := BitVec 48

/-- A signed 24-bit speed in 1/256 su per 64 µs (Table 0.3). -/
abbrev Speed := BitVec 24

/-- A station number, 0 to 15. -/
abbrev Station := Fin 16

/-- A camera port number, 0 to 3. -/
abbrev Cam := Fin 4

/-- A line store block number, 0 to 511. -/
abbrev Block := Fin 512

end Sys2Proof
end

