-- ==== Sys2Proof/Syntax.lean ====
section
/-! DEFINITION. The commands of the station: one constructor per row of spec/opcode_table.json, with what the event
brings with it as operands. The table gives no row any operand; each operand here is what the row's rule says the event
carries (log 11, 12, 13). -/
namespace Sys2Proof

/-- The classes of a character on the fibre (Table 1.1). -/
inductive CharClass where
  | idle
  | startDelimiter
  | endDelimiter
  | data
  | invalid
deriving DecidableEq, Repr

/-- The character that ends an open parcel before its end delimiter (R3). The fourth case of R3, the link entering DARK,
is part of LOSS_OF_LIGHT_OR_LOCK and of RESTART. -/
inductive DropCause where
  | idle
  | invalid
  | startDelimiter
deriving DecidableEq, Repr

/-- A parcel that is open in the receiver when the link goes dark: the data characters received since its start delimiter,
or none when no parcel is open (log 12). -/
abbrev OpenParcel := Option (List Byte)

/-- The commands, in the order of spec/opcode_table.json. -/
inductive Instr where
  /-- POWER_ON_RESET (R20): the strap levels and the encoder pair present. -/
  | powerOnReset (straps : Station) (a b : Bool)
  /-- LIGHT_AND_LOCK (R1). -/
  | lightAndLock
  /-- LOSS_OF_LIGHT_OR_LOCK (R1, R3): the parcel open in the receiver, if any. -/
  | lossOfLightOrLock (opened : OpenParcel)
  /-- INBOUND_UP (R1). -/
  | inboundUp
  /-- PARTIAL_DROP (R3): the data characters of the open parcel and what ends it. -/
  | partialDrop (chars : List Byte) (cause : DropCause)
  /-- PARCEL_ARRIVAL (R2): the data characters received before the end delimiter. -/
  | parcelArrival (chars : List Byte)
  /-- SEND_COMPLETION (R13). -/
  | sendCompletion
  /-- ALIGNMENT_RUN_END (R14). -/
  | alignmentRunEnd
  /-- EEPROM_READ_COMPLETE (R176). -/
  | eepromReadComplete
  /-- SIGNON_TIMER_EXPIRY (R29). -/
  | signonTimerExpiry
  /-- STATUS_TIMER_EXPIRY (R30). -/
  | statusTimerExpiry
  /-- RETURN_WATCH_EXPIRY (R27). -/
  | returnWatchExpiry
  /-- CLASH_EXPIRY (R35) of a roll entry. -/
  | clashExpiry (n : Station)
  /-- SILENCE_EXPIRY (R38) of a roll entry. -/
  | silenceExpiry (n : Station)
  /-- ENCODER_SAMPLE (R42): the pair now present. -/
  | encoderSample (a b : Bool)
  /-- INDEX_PULSE (R66). -/
  | indexPulse
  /-- CLEAN_EXPIRY (R44). -/
  | cleanExpiry
  /-- COORDINATE_UPDATE (R45). -/
  | coordinateUpdate
  /-- SPEED_WINDOW_EXPIRY (R48). -/
  | speedWindowExpiry
  /-- BEACON_TIMER_EXPIRY (R50). -/
  | beaconTimerExpiry
  /-- STALE_EXPIRY (R55) of a beacon entry. -/
  | staleExpiry (n : Station)
  /-- REMOVAL_EXPIRY (R55) of a beacon entry. -/
  | removalExpiry (n : Station)
  /-- ALIGNMENT_END (R65). -/
  | alignmentEnd
  /-- SEAM_EDGE (R71). -/
  | seamEdge
  /-- TRIGGER_PULSE_END (R90) of a camera. -/
  | triggerPulseEnd (i : Cam)
  /-- LAST_TRIGGER_TIME_LAPSE (R90) of a camera. -/
  | lastTriggerTimeLapse (i : Cam)
  /-- TRIGGER_TIMEOUT (R97) of a camera. -/
  | triggerTimeout (i : Cam)
  /-- LINE_VALID_RISE (R104) of a camera port. -/
  | lineValidRise (i : Cam)
  /-- LINE_COMPLETION (R102) of a camera port: the data inputs 0 to 11 at each pixel clock edge of the line. -/
  | lineCompletion (i : Cam) (pixels : List (BitVec 12))
  /-- DARK_EXPIRY (R104) of a camera port. -/
  | darkExpiry (i : Cam)
  /-- EASE_WINDOW_EXPIRY (R133). -/
  | easeWindowExpiry
  /-- EASE_ENTRY_EXPIRY (R139) of an ease entry. -/
  | easeEntryExpiry (n : Station)
  /-- ASSEMBLY_TIMEOUT (R153) of a reassembly context. -/
  | assemblyTimeout (k : Fin 32)
  /-- DLV_TAKE (R165). -/
  | dlvTake
  /-- DLV_CUT (R167). -/
  | dlvCut
  /-- DLV_HOLD (R168): the new level, high being true. -/
  | dlvHold (level : Bool)
  /-- INCOMPLETE_FRAME (R171): the bits shifted in, first bit first, fewer than 16. -/
  | incompleteFrame (bits : List Bool)
  /-- NOP (R173). -/
  | nop (arg : BitVec 12)
  /-- ITEM (R173): the index in the high six bits, the item number in the low six. -/
  | item (arg : BitVec 12)
  /-- HIGH (R173). -/
  | high (arg : BitVec 12)
  /-- ROLL (R174). -/
  | roll (arg : BitVec 12)
  /-- EEADDR (R175). -/
  | eeaddr (arg : BitVec 12)
  /-- EELO (R175). -/
  | eelo (arg : BitVec 12)
  /-- EEHI (R175). -/
  | eehi (arg : BitVec 12)
  /-- EEWRITE (R175). -/
  | eewrite (arg : BitVec 12)
  /-- EEREAD (R175). -/
  | eeread (arg : BitVec 12)
  /-- CLEAR (R177). -/
  | clear (arg : BitVec 12)
  /-- RESTART (R177): the strap levels then present and the parcel open in the receiver, if any. -/
  | restart (arg : BitVec 12) (straps : Station) (opened : OpenParcel)
  /-- UNKNOWN_COMMAND (R172): a code that names no command. -/
  | unknownCommand (code : BitVec 4) (arg : BitVec 12)
  /-- EEPROM_WRITE_COMPLETION (R175). -/
  | eepromWriteCompletion
  /-- SYNCING_CHARACTER (R1): the class of the character received. -/
  | syncingCharacter (c : CharClass)
deriving DecidableEq, Repr

end Sys2Proof
end

