-- ==== Sys2Proof/Decode.lean ====
section
/-! DEFINITION. The commands that have words: those of the service line, by the command word of Section 12.3, and the command that a
frame brings (R171). spec/opcode_table.json itself gives no row any bits, and no other row has a word (log 22). -/
namespace Sys2Proof

/-- The command register after the bits of SV_IN, the first shifted in first, most significant bit first (R171). -/
def shiftIn (w : Word16) (bits : List Bool) : Word16 := bits.foldl (fun w b => (w <<< 1) ||| (if b then 1 else 0)) w

/-- The command of a command word: the code in bits 15 to 12, the argument in bits 11 to 0 (Section 12.3). `straps` and `opened` are
what a RESTART finds at that moment. -/
def commandOf (w : Word16) (straps : Station) (opened : OpenParcel) : Instr :=
  let arg := w.extractLsb' 0 12
  match (w.extractLsb' 12 4).toNat with
  | 0 => .nop arg
  | 1 => .item arg
  | 2 => .high arg
  | 3 => .roll arg
  | 4 => .eeaddr arg
  | 5 => .eelo arg
  | 6 => .eehi arg
  | 7 => .eewrite arg
  | 8 => .eeread arg
  | 9 => .clear arg
  | 10 => .restart arg straps opened
  | _ => .unknownCommand (w.extractLsb' 12 4) arg

/-- The event at the end of a frame whose clock edges brought `bits` on SV_IN: with fewer than 16 the frame is incomplete; else its
command word is the first 16, and the others are ignored (R171). -/
def frameCommand (bits : List Bool) (straps : Station) (opened : OpenParcel) : Instr :=
  if bits.length < 16 then .incompleteFrame bits else commandOf (shiftIn 0 (bits.take 16)) straps opened

/-- The command that the word `w` of `nbits` bits spells: with 16 bits, that of a command word of the service line (Section 12.3), a
RESTART with the strap pins at 0 and no parcel open (log 22); any other number of bits spells none. -/
def decodeTableWord (nbits w : Nat) : Option Instr :=
  if nbits = 16 ∧ w < 2 ^ 16 then some (commandOf (BitVec.ofNat 16 w) 0 none) else none

end Sys2Proof
end

