-- ==== Sys2Proof/Config.lean ====
section
/-! DEFINITION. What one OW-4160 fixes (capacities, marks and periods the rules name) and the free values: the choices the
spec leaves open. A free value has no body, so nothing can be proved about which choice it makes. -/
namespace Sys2Proof

/-- The order in which the parties of one coordinate update take it (R45, R73, R87): whether the seam unit goes before the
strip position unit, and for each camera whether it goes before both (0), between them (1) or after both (2). -/
structure UpdateOrder where
  seamFirst : Bool
  slot0 : Fin 3
  slot1 : Fin 3
  slot2 : Fin 3
  slot3 : Fin 3
deriving DecidableEq, Repr, Inhabited

/-- The slot of camera `i`. -/
def UpdateOrder.slot (o : UpdateOrder) (i : Cam) : Fin 3 :=
  match i with
  | 0 => o.slot0
  | 1 => o.slot1
  | 2 => o.slot2
  | 3 => o.slot3

namespace Config

/-! Free values (log 3 to 7). Each is applied to the counter `freeCount` of the state. -/

/-- FREE. Which of several expiries due at one moment is taken first (0.4.4; log 3). -/
opaque eventOrder : Nat → Nat

/-- FREE. The order of the parties of a coordinate update (R73, R87; log 4). -/
opaque updateOrder : Nat → UpdateOrder

/-- FREE. Whether an idle run that began less than two units ago has reached 64 characters (R14; log 5). -/
opaque idleRunReached : Nat → Bool

/-- FREE. How many further words the EEPROM read replaces in one unit of station time (R176; log 6). -/
opaque readAdvance : Nat → Nat

/-- FREE. Whether a word being written at a power-on reset holds the written value (R175; log 7). -/
opaque tornWriteLands : Nat → Bool

/-! Capacities and marks. -/

/-- Idle characters that bring the inbound link to UP (R1) and that make an alignment run (R14). -/
def idlesToUp : Nat := 64
/-- Largest parcel, in data characters (R2). -/
def maxParcel : Nat := 2080
/-- Transit buffer capacity in bytes (R11). -/
def transitCapacity : Nat := 16384
/-- Insertion mark of the outbound scheduler (R15). -/
def insertionMark : Nat := 8192
/-- Line queue capacity in bytes (R119). -/
def lineCapacity : Nat := 262144
/-- Thin mark (R121). -/
def thinMark : Nat := 196608
/-- Ease-on mark (R134). -/
def easeOnMark : Nat := 131072
/-- Ease-off mark (R134). -/
def easeOffMark : Nat := 65536
/-- Least ease share (R135, R138). -/
def minShare : Nat := 64
/-- MARKs the control queue may hold (R124). -/
def markPlaces : Nat := 12
/-- Records of the pending-return list (R27). -/
def pendingReturns : Nat := 4
/-- Times of the illegal-step list (R43). -/
def illegalSteps : Nat := 16
/-- Entries of the seam list (R77). -/
def seamEntries : Nat := 8
/-- Distance within which two seams are one (R77). -/
def mergeDistance : Nat := 2000
/-- Records of a trigger FIFO (R95). -/
def fifoRecords : Nat := 4
/-- Payload bytes of a full segment, and bytes of a line store block (R118, R155). -/
def blockBytes : Nat := 2048
/-- Records of the delivery queue (R157). -/
def deliveryRecords : Nat := 128
/-- Longest locked length (R105). -/
def maxLockLength : Nat := 16384

/-- Characters sent in one unit (R13). -/
def charsPerUnit : Nat := 125

/-! Periods and delays, in units of 100 ns. -/

/-- Longest time between the ends of two runs of 64 idle characters before a run is due (R14). -/
def alignmentAge : Nat := 1000
/-- EEPROM read of START (R176). -/
def readTime : Nat := 20000
/-- Latest completion of an EEPROM write (R175). -/
def writeTime : Nat := 50000
/-- SIGNON timer period (R29). -/
def signonPeriod : Nat := 100000
/-- STATUS timer period (R30). -/
def statusPeriod : Nat := 100000
/-- Return watch (R27). -/
def returnWatch : Nat := 300000
/-- Clash expiry (R35). -/
def clashTime : Nat := 10000000
/-- Silence expiry (R38). -/
def silenceTime : Nat := 1000000
/-- Window within which 16 illegal steps are a fault (R43). -/
def faultWindow : Nat := 10000
/-- Clean expiry (R44). -/
def cleanTime : Nat := 100000
/-- Coordinate update period (R45). -/
def updatePeriod : Nat := 10
/-- Speed window (R48). -/
def speedWindow : Nat := 640
/-- Beacon timer period (R50). -/
def beaconPeriod : Nat := 2500
/-- Stale expiry (R55). -/
def staleTime : Nat := 20000
/-- Removal expiry (R55), also the cap of the extrapolation (R64). -/
def removalTime : Nat := 200000
/-- Start-up alignment (R65). -/
def listenTime : Nat := 50000
/-- Trigger pulse (R90). -/
def pulseTime : Nat := 10
/-- Lapse of the last trigger time (R90). -/
def triggerLapse : Nat := 65535
/-- Dark watch (R104). -/
def darkTime : Nat := 100000
/-- Ease window (R131). -/
def easeWindow : Nat := 1000
/-- Life of an ease entry (R138). -/
def easeLife : Nat := 10000
/-- Assembly timeout (R153). -/
def assemblyTime : Nat := 50000

end Config
end Sys2Proof
end

