-- ==== Sys2Proof/Machine/State.lean ====
section
/-! DEFINITION. The state of the station as plain data, block by block as spec/00_scope.md lists them (Table 0.2), and the
state right after power-on reset. A register that the spec writes or reads as a word is a bit vector of its width; a
count, an occupancy or an index is a natural number. -/
namespace Sys2Proof.Machine

/-! ### Names of states (Table 12.4) -/

/-- Inbound link state (R1). -/
inductive LinkState where
  | dark | syncing | up
deriving DecidableEq, Repr

/-- Station state (Table 2.1); `ringOpen` is OPEN. -/
inductive StationState where
  | start | passOnly | joining | running | ringOpen | duplicate
deriving DecidableEq, Repr

/-- Strip clock state (Table 3.8); `loc` is LOCAL. -/
inductive ClockState where
  | loc | none | following | coasting | held
deriving DecidableEq, Repr

/-- Encoder state (Table 3.3). -/
inductive EncoderState where
  | none | good | fault
deriving DecidableEq, Repr

/-- Camera port state (Table 6.2). -/
inductive PortState where
  | off | dark | sizing | locked | mismatch
deriving DecidableEq, Repr

/-- Roll entry condition (Table 2.5). -/
inductive RollCondition where
  | absent | present | silent | clash
deriving DecidableEq, Repr

/-- Beacon entry condition (Table 3.7). -/
inductive BeaconCondition where
  | empty | fresh | stale
deriving DecidableEq, Repr

/-- Position source (Section 3.7): none, LOCAL or a station. -/
inductive PositionSource where
  | none
  | loc
  | station (n : Station)
deriving DecidableEq, Repr

/-- Fill pattern of a camera port (R110). -/
inductive FillPattern where
  | black | flat | ramp
deriving DecidableEq, Repr

/-! ### Settings (Tables 3.1, 4.1, 5.1, 6.1, 9.1 and R117) -/

/-- The settings of one camera: trigger (Table 5.1), port (Table 6.1) and thin factor (R117). `enabled` says that the
record enables the camera and that all its trigger and port fields are valid (R85, R101). `nominalCount` (Nnom) and
`blackValue` are the two numbers the port derives once when the settings are taken (R101). -/
structure CameraSettings where
  enabled : Bool
  free : Bool
  substitute : Bool
  lengthCheck : Bool
  inputDepth : Nat
  deep : Bool
  fill : FillPattern
  pitch : Nat
  offset : Int
  minInterval : Nat
  timeout : Nat
  fallback : Nat
  nominal : Nat
  windowStart : Nat
  windowWidth : Nat
  black : Nat
  gain : Nat
  lift : Int
  low : Nat
  high : Nat
  peak : Nat
  thin : Nat
  nominalCount : Nat
  blackValue : Nat
deriving DecidableEq, Repr

/-- One acceptance filter (Table 9.1). -/
structure Filter where
  enabled : Bool
  value : BitVec 6
  mask : BitVec 6
deriving DecidableEq, Repr

/-- The settings in force, taken at the completion of a read that finds the record valid (R181). `encoder`, `seamInput`
and `takeOff` say that the record enables the function and that its fields are valid (R41, R70, R145). -/
structure Settings where
  encoder : Bool
  reversed : Bool
  num : Nat
  den : Nat
  encoderOffset : Int
  seamInput : Bool
  detectorOffset : Int
  lockout : Nat
  takeOff : Bool
  deliverBroken : Bool
  filters : Vector Filter 8
  cameras : Vector CameraSettings 4
deriving DecidableEq, Repr

/-- The function fault flags (R178); bit i of `cameras` is camera i. -/
structure FaultFlags where
  encoder : Bool
  seamInput : Bool
  takeOff : Bool
  cameras : BitVec 4
deriving DecidableEq, Repr

/-! ### Ring port (Section 1) -/

/-- The reception record (R2): the bytes stored, at most 2,080, and the count of all of them. -/
structure Reception where
  bytes : List Byte
  count : Nat
deriving DecidableEq, Repr

/-- A prepared parcel of the transit buffer (R12): header and body as prepared under R10, without the CRC that R17 computes
anew, and its arrival time. -/
structure TransitEntry where
  content : List Byte
  arrival : Time
deriving DecidableEq, Repr

/-- The queue a parcel being sent came from (R13). -/
inductive OutQueue where
  | transit | control | line
deriving DecidableEq, Repr

/-- The outbound parcel (R13): its queue and its data characters as sent, CRC included. -/
structure OutParcel where
  queue : OutQueue
  bytes : List Byte
deriving DecidableEq, Repr

/-- Ring port state. `outbound` is none in IDLE. `aligning` says that the port is sending an alignment run (R14);
`began` is when the sending or the alignment run in progress began; `lastRunEnd` is the end of the last run of 64 idles, none
when a run is due whatever was sent (R20, R21); `idleUnits` is how many units the idle run in progress has lasted, stopping
at 2. -/
structure RingPort where
  link : LinkState
  idleRun : Nat
  lightAndLock : Bool
  reception : Option Reception
  transit : List TransitEntry
  outbound : Option OutParcel
  aligning : Bool
  began : Time
  lastRunEnd : Option Time
  idleUnits : Nat
  linkDelay : Word16
  crcFaults : Word32
  unknownKinds : Word32
  orphans : Word32
  transitOverruns : Word32
  partialDrops : Word32
deriving DecidableEq, Repr

/-! ### Station control (Section 2) -/

/-- The functions a SIGNON carries (R29). -/
structure Functions where
  cameras : BitVec 4
  encoder : Bool
  seamInput : Bool
  takeOff : Bool
deriving DecidableEq, Repr

/-- The contents of a STATUS (Table 2.4) in the codes and widths in which Table 12.3 carries them; a received field is kept
as received (log 27). -/
structure StatusContents where
  source : Station
  originKey : Word16
  identity : Word32
  sequence : Word16
  stationState : Byte
  clockState : Byte
  followed : Byte
  portStates : Word16
  queueFill : Byte
  easeOriginating : Byte
  crcFaults : Word16
  linesRefused : Word16
  linesMissing : Word16
  brokenLines : Word16
deriving DecidableEq, Repr

/-- A roll entry (Table 2.5). -/
structure RollEntry where
  condition : RollCondition
  identity : Option Word32
  lastSequence : Option Word16
  receipt : Time
  identityChange : Time
  missed : BitVec 8
  functions : Option Functions
  contents : Option StatusContents
deriving DecidableEq, Repr

/-- The empty values of a roll entry (Table 2.5). -/
def RollEntry.blank : RollEntry :=
  { condition := .absent, identity := none, lastSequence := none, receipt := 0, identityChange := 0, missed := 0,
    functions := none, contents := none }

/-- A record of the pending-return list (R27). -/
structure ReturnRecord where
  sequence : Word16
  launch : Time
deriving DecidableEq, Repr

/-- Station control state. A timer is none when stopped, else the time at which its present period began. -/
structure StationControl where
  number : Station
  identity : Option Word32
  configValid : Bool
  state : StationState
  sequence : Word16
  pendingReturn : List ReturnRecord
  signonTimer : Option Time
  statusTimer : Option Time
  roll : Vector RollEntry 16
deriving DecidableEq, Repr

/-! ### Strip position unit (Section 3) -/

/-- A beacon table entry (Table 3.7). -/
structure BeaconEntry where
  condition : BeaconCondition
  coord : Coord
  speed : Speed
  age : BitVec 24
  receipt : Time
  hopsUsed : BitVec 4
  sequence : Word16
deriving DecidableEq, Repr

/-- An empty entry, all fields cleared (R55). -/
def BeaconEntry.blank : BeaconEntry :=
  { condition := .empty, coord := 0, speed := 0, age := 0, receipt := 0, hopsUsed := 0, sequence := 0 }

/-- Strip position unit state. -/
structure StripUnit where
  count : Word32
  heldA : Bool
  heldB : Bool
  lastCount : Word32
  residue : Word16
  encoder : EncoderState
  illegal : List Time
  x : Coord
  xhat : Coord
  vs : Speed
  windowAdvance : Int
  table : Vector BeaconEntry 16
  clock : ClockState
  followed : Option Station
  source : PositionSource
  alignStart : Option Time
  aligned : Bool
  beaconTimer : Option Time
  beaconSequence : Word16
  updateTimer : Time
  windowTimer : Time
  encoderErrors : Word32
  underrunClamps : Word32
  indexPulses : Word32
  sourceSwitches : Word32
deriving DecidableEq, Repr

/-! ### Seam unit (Section 4) -/

/-- A full capture holding record (R72). -/
structure Capture where
  xhat : Coord
  clock : ClockState
deriving DecidableEq, Repr

/-- A record offered to the seam list, and the latest-seam record (R73, R78). -/
structure SeamRecord where
  coord : Coord
  coil : Word16
  origin : Station
deriving DecidableEq, Repr

/-- A seam list entry (Table 4.2); bit i of `passed` is camera i. -/
structure SeamEntry where
  coord : Coord
  coil : Word16
  origin : Station
  passed : BitVec 4
deriving DecidableEq, Repr

/-- Seam unit state. -/
structure SeamUnit where
  lockoutEnd : Coord
  capture0 : Option Capture
  capture1 : Option Capture
  olderIsOne : Bool
  list : List SeamEntry
  highest : Word16
  latest : Option SeamRecord
  bounces : Word32
  captureOverflows : Word32
  unplaced : Word32
  placed : Word32
  merged : Word32
  lost : Word32
deriving DecidableEq, Repr

/-! ### Cameras (Sections 5, 6 and 7) -/

/-- The tags of a line: a trigger record without its time (Table 5.3). `flags` holds line flags (Table 12.4). -/
structure Tags where
  coil : Word16
  nominal : Word32
  flags : Word16
deriving DecidableEq, Repr

/-- A trigger record (Table 5.3). -/
structure TriggerRecord where
  tags : Tags
  fired : Time
deriving DecidableEq, Repr

/-- Trigger generator state of one camera. `pulse` is none while the trigger output is low, else the time at which it went
high. -/
structure Trigger where
  coil : Word16
  origin : Coord
  nLast : Int
  current : Word32
  lastTrigger : Option Time
  fallbackMark : Option Time
  pulse : Option Time
  fifo : List TriggerRecord
  sourceChange : Bool
  issued : Word32
  overspeed : Word32
  suppressed : Word32
  skipped : Word32
  missing : Word32
  unsolicited : Word32
deriving DecidableEq, Repr

/-- The line in reception (R102, R113): its length count, the conditioned pixels so far and the clip count. -/
structure LineRx where
  count : Nat
  pixels : List Nat
  clips : Nat
deriving DecidableEq, Repr

/-- The sizing run (R105): a run length and a run count of 1 to 3. -/
structure SizingRun where
  length : Nat
  count : Nat
deriving DecidableEq, Repr

/-- Camera port state. `lineValid` is the level of the line-valid input. -/
structure CameraPort where
  state : PortState
  lineValid : Bool
  line : Option LineRx
  lastLength : Nat
  run : Option SizingRun
  locked : Option Nat
  mismatched : Option Nat
  deviation : Nat
  darkWatch : Option Time
  serial : Word32
  produced : Word32
deriving DecidableEq, Repr

/-- Admission state of one camera (Section 7). -/
structure Admission where
  phase : Nat
  thinnedSince : BitVec 8
  admitted : Word32
  thinned : Word32
  refused : Word32
deriving DecidableEq, Repr

/-- One camera: trigger generator, port and admission. -/
structure Camera where
  trig : Trigger
  port : CameraPort
  adm : Admission
deriving DecidableEq, Repr

/-! ### Segmenter (Section 7) -/

/-- The launch values of an own parcel (R127); hops-left is 15. -/
structure OwnHeader where
  source : Station
  key : Word16
deriving DecidableEq, Repr

/-- A queued LINE parcel (R118, Table 12.2). -/
structure LineParcel where
  header : OwnHeader
  camera : Cam
  serial : Word32
  segIndex : Nat
  segCount : Nat
  coil : Word16
  nominal : Word32
  flags : Word16
  depth : Nat
  segPixels : Nat
  clips : Word16
  thinnedSince : BitVec 8
  payload : List Byte
deriving DecidableEq, Repr

/-- The body of a control parcel (R29, R30, R51, R74, R136). A STATUS has its body filled at its launch (R31), and a BEACON
its age at its departure from the sample time kept with it (R52). -/
inductive ControlBody where
  | signon (identity : Word32) (functions : Functions)
  | status
  | beacon (coord : Coord) (speed : Speed) (sequence : Word16) (seamCoil : Word16) (seamCoord : Coord) (sample : Time)
  | mark (coord : Coord) (coil : Word16)
  | ease (share : Word16)
deriving DecidableEq, Repr

/-- A control queue entry (R124, R127). -/
structure ControlParcel where
  header : OwnHeader
  body : ControlBody
deriving DecidableEq, Repr

/-- Segmenter state. -/
structure Segmenter where
  lines : List LineParcel
  control : List ControlParcel
  marksDropped : Word32
deriving DecidableEq, Repr

/-! ### Ease unit (Section 8) -/

/-- An ease table entry (Table 8.3); a share of 0 is no share. -/
structure EaseEntry where
  share : Word16
  expiry : Time
  live : Bool
deriving DecidableEq, Repr

/-- Ease unit state: u, W and Bk are `bytes`, `waiting` and `blocked`; A is `rate`. `phase` is the renewal phase, true for 1. -/
structure EaseUnit where
  bytes : Nat
  waiting : Nat
  blocked : Nat
  windowTimer : Time
  rate : Word16
  originating : Bool
  phase : Bool
  table : Vector EaseEntry 16
  easesSent : Word32
deriving DecidableEq, Repr

/-! ### Take-off unit (Section 9) -/

/-- The line fields of an ASSEMBLING context (Table 9.2). -/
structure Assembly where
  stream : BitVec 6
  serial : Word32
  segCount : Nat
  next : Nat
  coil : Word16
  nominal : Word32
  flags : Word16
  clips : Word16
  thinnedSince : BitVec 8
  depth : Nat
  pixels : Nat
  hit : Fin 8
  blocks : List Block
  lastArrival : Time
deriving DecidableEq, Repr

/-- A delivery record (Table 9.4). -/
structure DeliveryRecord where
  stream : BitVec 6
  hit : Fin 8
  flags : Word16
  present : Nat
  segCount : Nat
  serial : Word32
  coil : Word16
  nominal : Word32
  depth : Nat
  pixels : Nat
  clips : Word16
  thinnedSince : BitVec 8
  completed : Time
  blocks : List Block
deriving DecidableEq, Repr

/-- The bytes of the line store, address block × 2,048 + offset, in canonical form: addresses rising, no entry equal to the
byte an unlisted address reads as (log 9). -/
structure Memory where
  cells : List Host.Cell
deriving DecidableEq, Repr

/-- Take-off unit state; a context that is none is FREE. -/
structure TakeOffUnit where
  contexts : Vector (Option Assembly) 32
  store : Memory
  free : List Block
  queue : List DeliveryRecord
  linesTaken : Word32
  noContext : Word32
  orphanSegments : Word32
  brokenLines : Word32
  storeFull : Word32
  deliveryOverflow : Word32
deriving DecidableEq, Repr

/-! ### Delivery port (Section 10) -/

/-- Delivery port state; `holdPin` is the level of DLV_HOLD. -/
structure DeliveryPort where
  active : Bool
  position : Nat
  holdPin : Bool
  takesIgnored : Word32
  recordsCut : Word32
deriving DecidableEq, Repr

/-! ### Service line and settings store (Section 11) -/

/-- A write in progress (R175): the address and value fixed for it, and when it began. -/
structure EepromWrite where
  address : Fin 128
  value : Word16
  began : Time
deriving DecidableEq, Repr

/-- Service line state. -/
structure ServiceLine where
  command : Word16
  reply : Word16
  hold : Word32
  holdPending : Bool
  snapshot : RollEntry
  address : Fin 128
  latch : Word16
  write : Option EepromWrite
deriving DecidableEq, Repr

/-- Settings store state. `imageRead` is how many image words the read in progress has replaced. -/
structure SettingsStore where
  eeprom : Vector Word16 128
  image : Vector Word16 128
  imageRead : Nat
  readStart : Option Time
  settings : Option Settings
  faults : FaultFlags
deriving DecidableEq, Repr

/-! ### The state -/

/-- The station. `pending` is the queue of commands that wait, first in first out. `freeCount` is the model's own counter
behind the free values (log 28). -/
structure State where
  pending : List Instr
  freeCount : Nat
  time : Time
  ring : RingPort
  ctl : StationControl
  strip : StripUnit
  seam : SeamUnit
  cams : Vector Camera 4
  seg : Segmenter
  ease : EaseUnit
  take : TakeOffUnit
  dlv : DeliveryPort
  svc : ServiceLine
  store : SettingsStore
deriving DecidableEq, Repr

/-- Why the machine stops with a fault: never. The spec names no event at which the station stops. -/
inductive Fault where
deriving DecidableEq, Repr

/-- Why a command is refused. -/
inductive Refusal where
  /-- Raised by exec alone, for a command that has no meaning yet. Safe: nothing is claimed of it. -/
  | notModelled (mnemonic : String)
deriving DecidableEq, Repr

/-! ### Reset -/

/-- Ring port after power-on reset (R20). -/
def RingPort.reset : RingPort :=
  { link := .dark, idleRun := 0, lightAndLock := false, reception := none, transit := [], outbound := none, aligning := true,
    began := 0, lastRunEnd := none, idleUnits := 0, linkDelay := 0, crcFaults := 0, unknownKinds := 0, orphans := 0, transitOverruns := 0,
    partialDrops := 0 }

/-- Station control after power-on reset (R39). -/
def StationControl.reset (straps : Station) : StationControl :=
  { number := straps, identity := none, configValid := false, state := .start, sequence := 0, pendingReturn := [],
    signonTimer := none, statusTimer := none, roll := Vector.replicate 16 RollEntry.blank }

/-- Strip position unit after power-on reset (R67), with the encoder pair then present (R42). -/
def StripUnit.reset (a b : Bool) : StripUnit :=
  { count := 0, heldA := a, heldB := b, lastCount := 0, residue := 0, encoder := .none, illegal := [], x := 0, xhat := 0, vs := 0,
    windowAdvance := 0, table := Vector.replicate 16 BeaconEntry.blank, clock := .none, followed := none, source := .none,
    alignStart := none, aligned := false, beaconTimer := none, beaconSequence := 0, updateTimer := 0, windowTimer := 0,
    encoderErrors := 0, underrunClamps := 0, indexPulses := 0, sourceSwitches := 0 }

/-- Seam unit after power-on reset (R83). -/
def SeamUnit.reset : SeamUnit :=
  { lockoutEnd := 0, capture0 := none, capture1 := none, olderIsOne := false, list := [], highest := 0, latest := none,
    bounces := 0, captureOverflows := 0, unplaced := 0, placed := 0, merged := 0, lost := 0 }

/-- Trigger generator of one camera after either reset (R99, R100). -/
def Trigger.reset : Trigger :=
  { coil := 0, origin := 0, nLast := -1, current := 0, lastTrigger := none, fallbackMark := none, pulse := none, fifo := [],
    sourceChange := false, issued := 0, overspeed := 0, suppressed := 0, skipped := 0, missing := 0, unsolicited := 0 }

/-- A camera port after either reset, in state `st`, with the line-valid input at level `level` (R115, R116). -/
def CameraPort.reset (st : PortState) (level : Bool) : CameraPort :=
  { state := st, lineValid := level, line := none, lastLength := 0, run := none, locked := none, mismatched := none,
    deviation := 0, darkWatch := none, serial := 0, produced := 0 }

/-- Admission state of one camera after either reset (R129, R130). -/
def Admission.reset : Admission :=
  { phase := 0, thinnedSince := 0, admitted := 0, thinned := 0, refused := 0 }

/-- One camera after a reset. -/
def Camera.reset (st : PortState) (level : Bool) : Camera :=
  { trig := .reset, port := .reset st level, adm := .reset }

/-- Segmenter after power-on reset (R129). -/
def Segmenter.reset : Segmenter := { lines := [], control := [], marksDropped := 0 }

/-- An ease entry that is not live and has no share (R139). Its expiry time 0 is the model's DESIGN CHOICE (log 24). -/
def EaseEntry.blank : EaseEntry := { share := 0, expiry := 0, live := false }

/-- Ease unit after power-on reset (R143). -/
def EaseUnit.reset : EaseUnit :=
  { bytes := 0, waiting := 0, blocked := 0, windowTimer := 0, rate := 0, originating := false, phase := false,
    table := Vector.replicate 16 EaseEntry.blank, easesSent := 0 }

/-- Take-off unit after power-on reset (R161). -/
def TakeOffUnit.reset : TakeOffUnit :=
  { contexts := Vector.replicate 32 none, store := { cells := [] }, free := List.finRange 512, queue := [], linesTaken := 0,
    noContext := 0, orphanSegments := 0, brokenLines := 0, storeFull := 0, deliveryOverflow := 0 }

/-- Delivery port after power-on reset (R170), with DLV_HOLD at level `hold`. -/
def DeliveryPort.reset (hold : Bool) : DeliveryPort :=
  { active := false, position := 0, holdPin := hold, takesIgnored := 0, recordsCut := 0 }

/-- Service line after power-on reset (R179); the reply register holds the status reply OK of a station in START with no
write in progress and no hold pending, which is 0 (R171, Section 12.3). -/
def ServiceLine.reset : ServiceLine :=
  { command := 0, reply := 0, hold := 0, holdPending := false, snapshot := .blank, address := 0, latch := 0, write := none }

/-- No function fault flag set (R178). -/
def FaultFlags.clear : FaultFlags := { encoder := false, seamInput := false, takeOff := false, cameras := 0 }

/-- Settings store after power-on reset (R176, R178): the read of START has begun at station time 0. -/
def SettingsStore.reset (eeprom : Vector Word16 128) : SettingsStore :=
  { eeprom := eeprom, image := Vector.replicate 128 0, imageRead := 0, readStart := some 0, settings := none, faults := .clear }

/-- The station after a power-on reset with these EEPROM contents, straps and input levels (R20, R39, R67, R83, R99, R115,
R129, R143, R161, R170, R179); `levels` are the line-valid inputs of cameras 0 to 3. -/
def State.poweredOn (eeprom : Vector Word16 128) (straps : Station) (a b : Bool) (lightAndLock : Bool)
    (levels : Cam → Bool) (hold : Bool) (freeCount : Nat) (pending : List Instr) : State :=
  { pending := pending, freeCount := freeCount, time := 0, ring := { RingPort.reset with lightAndLock := lightAndLock },
    ctl := .reset straps, strip := .reset a b, seam := .reset,
    cams := #v[Camera.reset .off (levels 0), Camera.reset .off (levels 1), Camera.reset .off (levels 2), Camera.reset .off (levels 3)],
    seg := .reset, ease := .reset, take := .reset, dlv := .reset hold, svc := .reset, store := .reset eeprom }

/-- The EEPROM of State.reset (DESIGN CHOICE, log 8): the validity code of Section 11.3 in words 0 and 1, every other word 0,
and in word 127 the checksum that makes the 16-bit sum 0. -/
def defaultEeprom : Vector Word16 128 :=
  (((Vector.replicate 128 (0 : Word16)).set 0 0x5C3A).set 1 0x91E7).set 127 0x11DF

/-- The station right after power-on reset, with the EEPROM and the pin levels that log 8 and 10 name and an empty queue. -/
def State.reset : State :=
  State.poweredOn defaultEeprom 0 false false false (fun _ => false) false 0 []

end Sys2Proof.Machine
end

