-- ==== Sys2Proof/Machine/Ops.lean ====
section
/-! DEFINITION. The named operations on registers, counters, station times, fixed tables and the line store, which every
block's rules are written with. Taking an exception has no counterpart in this block. -/
namespace Sys2Proof.Machine

/-! ### Arithmetic (Section 0.4.3) -/

/-- A value clamped to `lo` to `hi`. -/
def clampInt (lo hi x : Int) : Int := max lo (min hi x)

/-- An exact coordinate clamped to 0 to 2^48 - 1. -/
def coordOf (x : Int) : Coord := BitVec.ofInt 48 (clampInt 0 281474976710655 x)

/-- An exact coil-relative coordinate clamped to 0 to 4,294,967,295 (R88). -/
def coilCoordOf (x : Int) : Word32 := BitVec.ofInt 32 (clampInt 0 4294967295 x)

/-- An exact speed clamped to -8,388,607 to +8,388,607 (R48). -/
def speedOf (x : Int) : Speed := BitVec.ofInt 24 (clampInt (-8388607) 8388607 x)

/-- `floor (a ÷ b)` for a positive `b`: Lean's division of integers by a positive divisor is the floor. -/
def floorDiv (a b : Int) : Int := a / b

/-- A saturating sum in `n` bits: a sum that would pass the top stays there. -/
def satAdd {n : Nat} (c : BitVec n) (k : Nat) : BitVec n := BitVec.ofNat n (min (c.toNat + k) (2 ^ n - 1))

/-- One more event in a saturating counter. -/
def satInc {n : Nat} (c : BitVec n) : BitVec n := satAdd c 1

/-- Whether sequence `b` is newer than `a` in the half-range sense. -/
def newer (b a : Word16) : Bool := decide (1 ≤ (b - a).toNat ∧ (b - a).toNat ≤ 32767)

/-! ### Station time -/

/-- Units from `t` to `now`, modulo 2^32. -/
def unitsSince (now t : Time) : Nat := (now - t).toNat

/-- Whether the period or delay of `n` units that began at `t` is over. -/
def reached (now t : Time) (n : Nat) : Bool := decide (n ≤ unitsSince now t)

/-- Whether a timer that may be stopped has run for `n` units. -/
def timerDue (now : Time) (t : Option Time) (n : Nat) : Bool :=
  match t with
  | some t => reached now t n
  | none => false

/-- The time at which the period after the one that began at `t` begins. -/
def nextPeriod (t : Time) (n : Nat) : Time := t + BitVec.ofNat 32 n

/-! ### Fixed tables -/

/-- The table with entry `i` replaced. -/
def put {α : Type} {n : Nat} (v : Vector α n) (i : Fin n) (x : α) : Vector α n := v.set i.val x i.isLt

/-- The table with entry `i` changed by `f`. -/
def change {α : Type} {n : Nat} (v : Vector α n) (i : Fin n) (f : α → α) : Vector α n := put v i (f v[i])

/-- The table with every entry changed by `f`. -/
def each {α β : Type} {n : Nat} (f : α → β) (v : Vector α n) : Vector β n :=
  ⟨⟨v.toList.map f⟩, by simp⟩

/-! ### Line store (Section 9.6) -/

namespace Memory

/-- What a byte of the line store that nothing has written reads as (log 9). -/
def blankByte : Byte := 0

/-- The canonical form: addresses strictly rising, and no entry equal to what an unlisted address reads as. -/
def wf (m : Memory) : Bool :=
  decide ((m.cells.map Prod.fst).Pairwise (· < ·)) && m.cells.all (fun c => c.2 != blankByte)

/-- The byte at an address. -/
def read (m : Memory) (a : Nat) : Byte :=
  match m.cells.find? (fun c => c.1 == a) with
  | some c => c.2
  | none => blankByte

/-- The cells of `bytes` laid out from address `a` upward, without those that read as unwritten. -/
def cellsOf (a : Nat) : List Byte → List Host.Cell
  | [] => []
  | b :: bs => if b == blankByte then cellsOf (a + 1) bs else (a, b) :: cellsOf (a + 1) bs

/-- The store with `bytes` copied to address `a` and upward, and every other byte as it was. -/
def write (m : Memory) (a : Nat) (bytes : List Byte) : Memory :=
  { cells := m.cells.filter (fun c => decide (c.1 < a)) ++ cellsOf a bytes
      ++ m.cells.filter (fun c => decide (a + bytes.length ≤ c.1)) }

end Memory

/-- The address of byte `off` of block `b`. -/
def blockAddress (b : Block) (off : Nat) : Nat := b.val * Config.blockBytes + off

/-! ### Station states as the blocks read them -/

/-- JOINING, RUNNING, OPEN and DUPLICATE: the states in which the seam unit, the trigger generator, the camera ports, the
ease and take-off units and the delivery port act (Tables 3.6, 4.4, 8.2, 9.5; R86, R103). -/
def StationState.runs : StationState → Bool
  | .start | .passOnly => false
  | .joining | .running | .ringOpen | .duplicate => true

/-- JOINING, RUNNING and OPEN: the states in which beacons and marks are launched and line parcels may be started
(R16, R50, R74). -/
def StationState.inserts : StationState → Bool
  | .joining | .running | .ringOpen => true
  | .start | .passOnly | .duplicate => false

/-- RUNNING and OPEN: the states in which lines are admitted and an ease notice may originate (R120, R134). -/
def StationState.admits : StationState → Bool
  | .running | .ringOpen => true
  | .start | .passOnly | .joining | .duplicate => false

/-! ### Whole-state accessors -/

namespace State

/-- The state with one camera changed. -/
def onCam (s : State) (i : Cam) (f : Camera → Camera) : State := { s with cams := change s.cams i f }

/-- The state with one camera's trigger generator changed. -/
def onTrig (s : State) (i : Cam) (f : Trigger → Trigger) : State := s.onCam i (fun c => { c with trig := f c.trig })

/-- The state with one camera's port changed. -/
def onPort (s : State) (i : Cam) (f : CameraPort → CameraPort) : State := s.onCam i (fun c => { c with port := f c.port })

/-- The state with one camera's admission state changed. -/
def onAdm (s : State) (i : Cam) (f : Admission → Admission) : State := s.onCam i (fun c => { c with adm := f c.adm })

/-- The state with the free-value counter moved on. -/
def bump (s : State) : State := { s with freeCount := s.freeCount + 1 }

/-- The settings of camera `i`, if any settings are held. -/
def camSettings (s : State) (i : Cam) : Option CameraSettings := s.store.settings.map (fun t => t.cameras[i])

/-- Whether the held settings enable camera `i` (R85, R101). -/
def camEnabled (s : State) (i : Cam) : Bool :=
  match s.camSettings i with
  | some c => c.enabled
  | none => false

/-- The cameras-enabled mask, bit i for camera i (R29, R79). -/
def enabledMask (s : State) : BitVec 4 :=
  BitVec.ofNat 4 ((s.camEnabled 0).toNat + 2 * (s.camEnabled 1).toNat + 4 * (s.camEnabled 2).toNat + 8 * (s.camEnabled 3).toNat)

/-- Whether the station is an encoder station (R41). -/
def encoderStation (s : State) : Bool :=
  match s.store.settings with
  | some t => t.encoder
  | none => false

/-- Whether the station is a seam station (R70). -/
def seamStation (s : State) : Bool :=
  match s.store.settings with
  | some t => t.seamInput
  | none => false

/-- Whether take-off is enabled (R145). -/
def takeOffEnabled (s : State) : Bool :=
  match s.store.settings with
  | some t => t.takeOff
  | none => false

/-- The low 16 bits of the identity held (R22), 0 while none is held, when no parcel is launched. -/
def originKey (s : State) : Word16 := (s.ctl.identity.getD 0).setWidth 16

/-- The launch values of a parcel that joins a queue now (R127). -/
def ownHeader (s : State) : OwnHeader := { source := s.ctl.number, key := s.originKey }

end State

/-! ### Queue occupancies -/

/-- The size of a buffered parcel: its header and body with the 4 CRC bytes (Section 1.2). -/
def TransitEntry.size (e : TransitEntry) : Nat := e.content.length + 4

/-- The occupancy of the transit buffer (R11). -/
def transitOccupancy (q : List TransitEntry) : Nat := (q.map TransitEntry.size).sum

/-- The size of a LINE parcel: its payload bytes plus 32 (R118). -/
def LineParcel.size (p : LineParcel) : Nat := p.payload.length + 32

/-- The occupancy of the line queue (R119). -/
def lineOccupancy (q : List LineParcel) : Nat := (q.map LineParcel.size).sum

end Sys2Proof.Machine
end

