-- ==== Sys2Proof/Machine/Operands.lean ====
section
/-! DEFINITION. Layouts (Section 12): bytes of parcels, the CRC, the words of the configuration record, and the words of a
delivery record. Every parcel is read and built here and nowhere else. -/
namespace Sys2Proof.Machine

/-! ### Bytes of multi-byte fields: most significant byte first (Section 12) -/

/-- Byte `i` of a run of bytes, 0 beyond its end. -/
def byteAt (l : List Byte) (i : Nat) : Byte := l.getD i 0

/-- The number held in a run of bytes, most significant first. -/
def ofBytes (l : List Byte) : Nat := l.foldl (fun n b => n * 256 + b.toNat) 0

/-- The field of `n` bytes at byte `i`, in `w` bits. -/
def field (l : List Byte) (i n w : Nat) : BitVec w := BitVec.ofNat w (ofBytes ((l.drop i).take n))

/-- The low `n` bytes of a number, most significant first. -/
def toBytes : Nat → Nat → List Byte
  | 0, _ => []
  | n + 1, v => BitVec.ofNat 8 (v / 256 ^ n) :: toBytes n v

/-- The bytes with the run `new` laid over those from byte `i` on. -/
def putBytes (l : List Byte) (i : Nat) (new : List Byte) : List Byte := l.take i ++ new ++ l.drop (i + new.length)

/-- A body filled up to `n` bytes with zeros (R180). -/
def padTo (n : Nat) (l : List Byte) : List Byte := l ++ List.replicate (n - l.length) 0

/-- Bit `i` of a field as a flag. -/
def bit {w : Nat} (x : BitVec w) (i : Nat) : Bool := x.getLsbD i

/-! ### CRC-32 (R180) -/

/-- One bit of the CRC register: generator polynomial H'04C11DB7, most significant bit first. -/
def crcBit (r : Word32) : Word32 := if r.msb then (r <<< 1) ^^^ 0x04C11DB7#32 else r <<< 1

/-- One byte entered into the CRC register. -/
def crcByte (r : Word32) (b : Byte) : Word32 :=
  crcBit (crcBit (crcBit (crcBit (crcBit (crcBit (crcBit (crcBit (r ^^^ (b.setWidth 32 <<< 24)))))))))

/-- The CRC-32 of a header and body: register initialised to H'FFFFFFFF and finally inverted. -/
def crc32 (l : List Byte) : Word32 := ~~~ (l.foldl crcByte 0xFFFFFFFF#32)

/-- The data characters of a parcel: its header and body with the CRC over them. -/
def withCrc (content : List Byte) : List Byte := content ++ toBytes 4 (crc32 content).toNat

/-! ### Common header (Table 12.1) -/

/-- Header length in bytes. -/
def headerBytes : Nat := 7
/-- CRC length in bytes. -/
def crcBytes : Nat := 4

/-- The kinds of parcels. -/
inductive Kind where
  | line | beacon | mark | ease | status | signon
deriving DecidableEq, Repr

/-- The code of a kind. -/
def Kind.code : Kind → Byte
  | .line => 0x01
  | .beacon => 0x02
  | .mark => 0x03
  | .ease => 0x04
  | .status => 0x05
  | .signon => 0x06

/-- The kind a code names, if any. -/
def kindOf (b : Byte) : Option Kind :=
  if b = 0x01 then some .line
  else if b = 0x02 then some .beacon
  else if b = 0x03 then some .mark
  else if b = 0x04 then some .ease
  else if b = 0x05 then some .status
  else if b = 0x06 then some .signon
  else none

/-- Whether a parcel of `n` bytes has the size of its kind (Table 1.4). -/
def Kind.sizeOk : Kind → Nat → Bool
  | .line, n => decide (33 ≤ n ∧ n ≤ 2080)
  | .status, n => n == 128
  | .beacon, n | .mark, n | .ease, n | .signon, n => n == 64

/-- Body length of the fixed-size kinds (Table 12.3). -/
def Kind.bodyBytes : Kind → Nat
  | .status => 117
  | .line | .beacon | .mark | .ease | .signon => 53

/-- The kind of a parcel. -/
def kindField (p : List Byte) : Option Kind := kindOf (byteAt p 0)
/-- The source station of a parcel. -/
def sourceField (p : List Byte) : Station := Fin.ofNat 16 (byteAt p 1).toNat
/-- Hops-left of a parcel. -/
def hopsField (p : List Byte) : Nat := (byteAt p 1).toNat / 16
/-- The origin key of a parcel. -/
def keyField (p : List Byte) : Word16 := field p 2 2 16
/-- The body length field of a parcel. -/
def lengthField (p : List Byte) : Nat := (field p 4 2 16).toNat
/-- The header length check byte of a parcel. -/
def checkField (p : List Byte) : Nat := (byteAt p 6).toNat

/-- A common header. -/
def headerOf (k : Kind) (hops : Nat) (h : OwnHeader) (bodyLength : Nat) : List Byte :=
  [k.code, BitVec.ofNat 8 (hops * 16 + h.source.val)] ++ toBytes 2 h.key.toNat ++ toBytes 2 bodyLength ++ [7]

/-- Hops-left with which every own parcel is launched (R127). -/
def launchHops : Nat := 15

/-- The soundness check of R4, over the data characters and their count. -/
def sound (r : Reception) : Bool :=
  decide (headerBytes + crcBytes ≤ r.count ∧ r.count ≤ Config.maxParcel
    ∧ r.count = headerBytes + lengthField r.bytes + crcBytes ∧ checkField r.bytes = 7
    ∧ (field r.bytes (r.count - crcBytes) crcBytes 32) = crc32 (r.bytes.take (r.count - crcBytes)))

/-- A parcel with hops-left reduced by 1 (R10). -/
def lessOneHop (p : List Byte) : List Byte := putBytes p 1 [byteAt p 1 - 0x10]

/-! ### BEACON (Table 12.3) -/

/-- The age of a BEACON. -/
def ageField (p : List Byte) : BitVec 24 := field p 16 3 24

/-- A BEACON with its age increased by `d` units, saturating at 16,777,215 (R10, R17). -/
def addAge (p : List Byte) (d : Nat) : List Byte := putBytes p 16 (toBytes 3 (satAdd (ageField p) d).toNat)

/-- The reference coordinate of a BEACON. -/
def beaconCoord (p : List Byte) : Coord := field p 7 6 48
/-- The speed of a BEACON. -/
def beaconSpeed (p : List Byte) : Speed := field p 13 3 24
/-- The sequence of a BEACON. -/
def beaconSeq (p : List Byte) : Word16 := field p 19 2 16
/-- The latest-seam coil of a BEACON. -/
def beaconCoil (p : List Byte) : Word16 := field p 21 2 16
/-- The latest-seam coordinate of a BEACON. -/
def beaconSeam (p : List Byte) : Coord := field p 23 6 48

/-- The header and body of an own BEACON that leaves with age `age`. -/
def beaconBytes (h : OwnHeader) (coord : Coord) (speed : Speed) (age : BitVec 24) (seq coil : Word16) (seam : Coord) :
    List Byte :=
  headerOf .beacon launchHops h Kind.beacon.bodyBytes
    ++ padTo 53 (toBytes 6 coord.toNat ++ toBytes 3 speed.toNat ++ toBytes 3 age.toNat ++ toBytes 2 seq.toNat
        ++ toBytes 2 coil.toNat ++ toBytes 6 seam.toNat)

/-! ### MARK and EASE (Table 12.3) -/

/-- The seam coordinate of a MARK. -/
def markCoord (p : List Byte) : Coord := field p 7 6 48
/-- The coil of a MARK. -/
def markCoil (p : List Byte) : Word16 := field p 13 2 16
/-- The header and body of an own MARK. -/
def markBytes (h : OwnHeader) (coord : Coord) (coil : Word16) : List Byte :=
  headerOf .mark launchHops h Kind.mark.bodyBytes ++ padTo 53 (toBytes 6 coord.toNat ++ toBytes 2 coil.toNat)

/-- The share of an EASE. -/
def easeShare (p : List Byte) : Word16 := field p 7 2 16
/-- The header and body of an own EASE. -/
def easeBytes (h : OwnHeader) (share : Word16) : List Byte :=
  headerOf .ease launchHops h Kind.ease.bodyBytes ++ padTo 53 (toBytes 2 share.toNat)

/-! ### SIGNON and STATUS (Table 12.3) -/

/-- The identity of a SIGNON or a STATUS. -/
def identityField (p : List Byte) : Word32 := field p 7 4 32

/-- The functions of a SIGNON. -/
def functionsField (p : List Byte) : Functions :=
  { cameras := (byteAt p 11).setWidth 4, encoder := bit (byteAt p 12) 0, seamInput := bit (byteAt p 12) 1,
    takeOff := bit (byteAt p 12) 2 }

/-- The function flags byte of a SIGNON; the bits that Table 12.3 does not name are 0 (log 39). -/
def functionFlags (f : Functions) : Byte :=
  BitVec.ofNat 8 (f.encoder.toNat + 2 * f.seamInput.toNat + 4 * f.takeOff.toNat)

/-- The header and body of an own SIGNON. The bits of its mask and flags bytes that Table 12.3 does not name are sent as 0, the model's
DESIGN CHOICE (log 39). -/
def signonBytes (h : OwnHeader) (identity : Word32) (f : Functions) : List Byte :=
  headerOf .signon launchHops h Kind.signon.bodyBytes
    ++ padTo 53 (toBytes 4 identity.toNat ++ [f.cameras.setWidth 8, functionFlags f])

/-- The contents of a STATUS as received. -/
def statusField (p : List Byte) : StatusContents :=
  { source := sourceField p, originKey := keyField p, identity := identityField p, sequence := field p 11 2 16,
    stationState := byteAt p 13, clockState := byteAt p 14, followed := byteAt p 15, portStates := field p 16 2 16,
    queueFill := byteAt p 18, easeOriginating := byteAt p 19, crcFaults := field p 20 2 16, linesRefused := field p 22 2 16,
    linesMissing := field p 24 2 16, brokenLines := field p 26 2 16 }

/-- The header and body of an own STATUS with these contents. -/
def statusBytes (h : OwnHeader) (c : StatusContents) : List Byte :=
  headerOf .status launchHops h Kind.status.bodyBytes
    ++ padTo 117 (toBytes 4 c.identity.toNat ++ toBytes 2 c.sequence.toNat ++ [c.stationState, c.clockState, c.followed]
        ++ toBytes 2 c.portStates.toNat ++ [c.queueFill, c.easeOriginating] ++ toBytes 2 c.crcFaults.toNat
        ++ toBytes 2 c.linesRefused.toNat ++ toBytes 2 c.linesMissing.toNat ++ toBytes 2 c.brokenLines.toNat)

/-! ### LINE (Table 12.2) -/

/-- The fields of a LINE segment as received, with its payload. -/
structure Segment where
  source : Station
  camera : Nat
  serial : Word32
  index : Nat
  count : Nat
  coil : Word16
  nominal : Word32
  flags : Word16
  depth : Nat
  pixels : Nat
  clips : Word16
  thinnedSince : BitVec 8
  payload : List Byte
deriving DecidableEq, Repr

/-- The segment in the header and body of a LINE parcel; flag bits 8 to 15 are cleared (R180). -/
def segmentOf (p : List Byte) : Segment :=
  { source := sourceField p, camera := (byteAt p 7).toNat, serial := field p 8 4 32, index := (byteAt p 12).toNat,
    count := (byteAt p 13).toNat, coil := field p 14 2 16, nominal := field p 16 4 32, flags := (field p 20 2 16) &&& 0x00FF#16,
    depth := (byteAt p 22).toNat, pixels := (field p 23 2 16).toNat, clips := field p 25 2 16, thinnedSince := byteAt p 27,
    payload := p.drop 28 }

/-- The header and body of a queued LINE parcel. -/
def lineBytes (p : LineParcel) : List Byte :=
  headerOf .line launchHops p.header (21 + p.payload.length)
    ++ [BitVec.ofNat 8 p.camera.val] ++ toBytes 4 p.serial.toNat ++ [BitVec.ofNat 8 p.segIndex, BitVec.ofNat 8 p.segCount]
    ++ toBytes 2 p.coil.toNat ++ toBytes 4 p.nominal.toNat ++ toBytes 2 p.flags.toNat ++ [BitVec.ofNat 8 p.depth]
    ++ toBytes 2 p.segPixels ++ toBytes 2 p.clips.toNat ++ [p.thinnedSince] ++ p.payload

/-- The payload bytes of conditioned pixels: one byte each at ring depth 8, two at depth 16, the more significant first
(R118, Table 12.2). -/
def payloadOf (deep : Bool) : List Nat → List Byte
  | [] => []
  | v :: vs => (if deep then toBytes 2 v else toBytes 1 v) ++ payloadOf deep vs

/-! ### Configuration record (Tables 12.7 and 12.8) -/

/-- Word `i` of an image, 0 beyond its end. -/
def wordAt (m : Vector Word16 128) (i : Nat) : Word16 := m.toList.getD i 0

/-- Two words, the lower-numbered the high half (R181). -/
def twoWords (m : Vector Word16 128) (i : Nat) : Word32 := wordAt m i ++ wordAt m (i + 1)

/-- The 16-bit sum of the 128 words (R176). -/
def wordSum (m : Vector Word16 128) : Word16 := m.toList.foldl (· + ·) 0

/-- Whether the record is valid (R176): the validity code in words 0 and 1, and a sum of 0. -/
def recordValid (m : Vector Word16 128) : Bool :=
  wordAt m 0 == 0x5C3A && wordAt m 1 == 0x91E7 && wordSum m == 0

/-- The identity in words 2 and 3 (R22). -/
def recordIdentity (m : Vector Word16 128) : Word32 := twoWords m 2

/-- The value of a pixel conditioned by these settings, before the clamp of step 6 (R112). -/
def unclamped (c : CameraSettings) (p : Nat) : Int :=
  let q : Int := (p * 2 ^ (12 - c.inputDepth) : Nat)
  let s1 := q - c.black
  let s2 := s1 * c.gain
  let s3 := floorDiv (s2 + 128) 256
  let s4 := s3 + c.lift
  if c.deep then s4 else floorDiv (s4 + 8) 16

/-- The conditioned value of a pixel (R112, step 6). -/
def conditioned (c : CameraSettings) (p : Nat) : Nat := (clampInt c.low c.high (unclamped c p)).toNat

/-- Whether the clamp of step 6 changes the value (R113). -/
def clipped (c : CameraSettings) (p : Nat) : Bool := decide (unclamped c p < c.low ∨ (c.high : Int) < unclamped c p)

/-- The end of the window on a line of `len` pixels, a width of 0 read as `len` (R101, R109). -/
def windowEnd (c : CameraSettings) (len : Nat) : Nat :=
  min (c.windowStart + (if c.windowWidth = 0 then len else c.windowWidth)) len

/-- The output count of a line of `len` pixels (R101, R109). -/
def outputCount (c : CameraSettings) (len : Nat) : Nat := windowEnd c len - c.windowStart

/-- The thin factor that a thin factor field selects (R117). -/
def thinFactor (f : Nat) : Nat := if f ≤ 1 then 1 else if f ≤ 16 then f else 16

/-- The first word of camera `i`'s block (Table 12.7). -/
def cameraBase (i : Nat) : Nat := 22 + 19 * i

/-- Whether a camera's trigger fields are valid (Table 5.1, R181); `t` is the timeout field. -/
def triggerValid (c : CameraSettings) (t : Nat) : Bool :=
  decide (1 ≤ c.pitch ∧ 10 ≤ c.minInterval ∧ (t = 0 ∨ (500 ≤ t ∧ t ≤ 100000))
    ∧ (c.fallback = 0 ∨ (100 ≤ c.fallback ∧ c.fallback ≤ 1000000 ∧ c.minInterval ≤ c.fallback)))

/-- Whether a camera's port fields are valid (Table 6.1, R101); `w0` is the first word of its block. -/
def portValid (c : CameraSettings) (w0 : Word16) : Bool :=
  let depthCode := (w0.extractLsb' 8 4).toNat
  let ringCode := (w0.extractLsb' 4 4).toNat
  let fillCode := (w0.extractLsb' 0 2).toNat
  decide ((depthCode = 8 ∨ depthCode = 10 ∨ depthCode = 12) ∧ (ringCode = 1 ∨ ringCode = 2) ∧ fillCode ≤ 2
    ∧ 256 ≤ c.nominal ∧ c.nominal ≤ 16384 ∧ c.windowStart ≤ 1023 ∧ c.windowStart < c.nominal ∧ c.windowWidth ≤ 16384
    ∧ c.black ≤ 4095 ∧ c.gain ≤ 1023 ∧ -2048 ≤ c.lift ∧ c.lift ≤ 2047
    ∧ c.low ≤ c.high ∧ c.high ≤ (if c.deep then 4095 else 255))

/-- The fields of camera `i` as its block holds them (Table 12.8), before the numbers derived from them. -/
def cameraFields (m : Vector Word16 128) (i : Nat) : CameraSettings :=
  let b := cameraBase i
  let w0 := wordAt m b
  let t := (twoWords m (b + 5)).toNat
  { enabled := bit w0 15, free := bit w0 14, substitute := bit w0 13, lengthCheck := bit w0 12,
    inputDepth := (w0.extractLsb' 8 4).toNat, deep := (w0.extractLsb' 4 4) == 2,
    fill := if w0.extractLsb' 0 2 = 1 then .flat else if w0.extractLsb' 0 2 = 2 then .ramp else .black,
    pitch := (wordAt m (b + 1)).toNat, offset := (twoWords m (b + 2)).toInt, minInterval := (wordAt m (b + 4)).toNat,
    timeout := if t = 0 then 10000 else t, fallback := (twoWords m (b + 7)).toNat, nominal := (wordAt m (b + 9)).toNat,
    windowStart := (wordAt m (b + 10)).toNat, windowWidth := (wordAt m (b + 11)).toNat, black := (wordAt m (b + 12)).toNat,
    gain := (wordAt m (b + 13)).toNat, lift := (wordAt m (b + 14)).toInt, low := (wordAt m (b + 15)).toNat,
    high := (wordAt m (b + 16)).toNat, peak := (wordAt m (b + 17)).toNat, thin := thinFactor (wordAt m (b + 18)).toNat,
    nominalCount := 0, blackValue := 0 }

/-- Whether every trigger and port field of camera `i` is valid (R85, R101). -/
def cameraValid (m : Vector Word16 128) (i : Nat) : Bool :=
  triggerValid (cameraFields m i) (twoWords m (cameraBase i + 5)).toNat
    && portValid (cameraFields m i) (wordAt m (cameraBase i))

/-- The settings of camera `i`: an enabled camera has every field valid (R85, R101). -/
def cameraSettings (m : Vector Word16 128) (i : Nat) : CameraSettings :=
  let c := cameraFields m i
  { c with enabled := c.enabled && cameraValid m i, nominalCount := outputCount c c.nominal, blackValue := conditioned c 0 }

/-- Filter `i` of the record (Table 12.7). -/
def filterAt (m : Vector Word16 128) (i : Nat) : Filter :=
  let w := wordAt m (14 + i)
  { enabled := bit w 15, value := w.extractLsb' 8 6, mask := w.extractLsb' 0 6 }

/-- Whether the encoder's scale fields are valid (R41). -/
def encoderValid (m : Vector Word16 128) : Bool := wordAt m 6 != 0 && wordAt m 7 != 0

/-- Whether the lockout distance is valid (R70). -/
def lockoutValid (m : Vector Word16 128) : Bool := decide (1 ≤ (twoWords m 12).toNat ∧ (twoWords m 12).toNat ≤ 1000000)

/-- Whether the broken-line policy field holds one of its two codes (R145). -/
def policyValid (m : Vector Word16 128) : Bool := decide (((wordAt m 4).extractLsb' 0 2).toNat ≤ 1)

/-- The settings of a valid record (R181). -/
def recordSettings (m : Vector Word16 128) : Settings :=
  let w := wordAt m 4
  { encoder := bit w 15 && encoderValid m, reversed := bit w 14, num := (wordAt m 6).toNat, den := (wordAt m 7).toNat,
    encoderOffset := (twoWords m 8).toInt, seamInput := bit w 13 && lockoutValid m, detectorOffset := (twoWords m 10).toInt,
    lockout := (twoWords m 12).toNat, takeOff := bit w 12 && policyValid m, deliverBroken := w.extractLsb' 0 2 == 1,
    filters := #v[filterAt m 0, filterAt m 1, filterAt m 2, filterAt m 3, filterAt m 4, filterAt m 5, filterAt m 6, filterAt m 7],
    cameras := #v[cameraSettings m 0, cameraSettings m 1, cameraSettings m 2, cameraSettings m 3] }

/-- The inbound link delay of a record (R10). -/
def recordLinkDelay (m : Vector Word16 128) : Word16 := wordAt m 5

/-- Whether the record enables camera `i` with an invalid field (R178). -/
def cameraFault (m : Vector Word16 128) (i : Nat) : Bool := bit (wordAt m (cameraBase i)) 15 && !cameraValid m i

/-- The function fault flags of a valid record (R178). -/
def recordFaults (m : Vector Word16 128) : FaultFlags :=
  let w := wordAt m 4
  { encoder := bit w 15 && !encoderValid m, seamInput := bit w 13 && !lockoutValid m, takeOff := bit w 12 && !policyValid m,
    cameras := BitVec.ofNat 4 ((cameraFault m 0).toNat + 2 * (cameraFault m 1).toNat + 4 * (cameraFault m 2).toNat
      + 8 * (cameraFault m 3).toNat) }

/-! ### Delivery record words (R164, Table 12.5) -/

/-- The number of words of a record (R164). -/
def wordCount (r : DeliveryRecord) : Nat :=
  if r.depth = 16 then 4 + (r.pixels + 3) / 4 else 4 + (r.pixels + 7) / 8

/-- Payload byte `n` of a record, read from its blocks in order, each of 2,048 bytes. A record whose segments differ in depth or in
segment count can hold shorter blocks, or fewer than its pixel count needs; that its bytes are still those at n / 2,048 and
n mod 2,048, and 0 past the block list, is the model's DESIGN CHOICE (log 36). -/
def recordByte (m : Memory) (r : DeliveryRecord) (n : Nat) : Byte :=
  match r.blocks[n / Config.blockBytes]? with
  | some b => m.read (blockAddress b (n % Config.blockBytes))
  | none => 0

/-- Pixel `n` of a record: one byte at depth 8, two at depth 16, the more significant first. The upper four bits of a received
depth-16 pixel are passed on as they came, the model's DESIGN CHOICE (log 37). -/
def recordPixel (m : Memory) (r : DeliveryRecord) (n : Nat) : Nat :=
  if r.depth = 16 then (recordByte m r (2 * n)).toNat * 256 + (recordByte m r (2 * n + 1)).toNat
  else (recordByte m r n).toNat

/-- Pixel lanes `from` on, the first in the least significant lane of `w` bits; lanes beyond the last pixel are 0. -/
def lanes (m : Memory) (r : DeliveryRecord) (w : Nat) : Nat → Nat → Nat
  | 0, _ => 0
  | k + 1, n => (if n < r.pixels then recordPixel m r n else 0) + 2 ^ w * lanes m r w k (n + 1)

/-- Word `n` of a record. -/
def recordWord (m : Memory) (r : DeliveryRecord) (n : Nat) : BitVec 64 :=
  BitVec.ofNat 64 <|
    match n with
    | 0 => r.stream.toNat + 2 ^ 8 * r.hit.val + 2 ^ 16 * r.flags.toNat + 2 ^ 32 * r.present + 2 ^ 40 * r.segCount
    | 1 => r.serial.toNat + 2 ^ 32 * r.coil.toNat + 2 ^ 48 * r.depth
    | 2 => r.nominal.toNat + 2 ^ 32 * r.pixels + 2 ^ 48 * r.clips.toNat
    | 3 => r.completed.toNat + 2 ^ 32 * r.thinnedSince.toNat
    | j + 4 => if r.depth = 16 then lanes m r 16 4 (4 * j) else lanes m r 8 8 (8 * j)

end Sys2Proof.Machine
end

