-- ==== Sys2Proof/Machine/Flags.lean ====
section
/-! DEFINITION. Flags, codes and the quantities computed from the state for a reader outside: line flags and state codes
(Table 12.4), STATUS contents (Table 2.4), the effective line limit (R140), the outputs of the delivery port (Table 10.2),
the status reply and the packed service items (Section 12.3). -/
namespace Sys2Proof.Machine

/-! ### Line flags (Table 12.4) -/

/-- SUBSTITUTED. -/
def flagSubstituted : Word16 := 0x0001
/-- SHORT. -/
def flagShort : Word16 := 0x0002
/-- LONG. -/
def flagLong : Word16 := 0x0004
/-- ESTIMATED. -/
def flagEstimated : Word16 := 0x0008
/-- NO_POSITION. -/
def flagNoPosition : Word16 := 0x0010
/-- SOURCE_CHANGE. -/
def flagSourceChange : Word16 := 0x0020
/-- UNTRIGGERED. -/
def flagUntriggered : Word16 := 0x0040
/-- PEAK. -/
def flagPeak : Word16 := 0x0080
/-- BROKEN, in delivery records only. -/
def flagBroken : Word16 := 0x0100

/-- A flag when its condition holds. -/
def flagIf (c : Bool) (f : Word16) : Word16 := if c then f else 0

/-- The position flags of a record or tag (R91): ESTIMATED in COASTING, NO_POSITION in HELD and NONE, SOURCE_CHANGE when it
is pending. -/
def positionFlags (clock : ClockState) (sourceChange : Bool) : Word16 :=
  flagIf (clock == .coasting) flagEstimated ||| flagIf (clock == .held || clock == .none) flagNoPosition
    ||| flagIf sourceChange flagSourceChange

/-! ### Codes (Table 12.4, Table 12.6) -/

/-- Code of a station state. -/
def StationState.code : StationState → Nat
  | .start => 0 | .passOnly => 1 | .joining => 2 | .running => 3 | .ringOpen => 4 | .duplicate => 5

/-- Code of a strip clock state. -/
def ClockState.code : ClockState → Nat
  | .loc => 0 | .none => 1 | .following => 2 | .coasting => 3 | .held => 4

/-- Code of a camera port state. -/
def PortState.code : PortState → Nat
  | .off => 0 | .dark => 1 | .sizing => 2 | .locked => 3 | .mismatch => 4

/-- Code of an inbound link state. -/
def LinkState.code : LinkState → Nat
  | .dark => 0 | .syncing => 1 | .up => 2

/-- Code of an encoder state. -/
def EncoderState.code : EncoderState → Nat
  | .none => 0 | .good => 1 | .fault => 2

/-- Code of a roll condition. -/
def RollCondition.code : RollCondition → Nat
  | .absent => 0 | .present => 1 | .silent => 2 | .clash => 3

/-- Code of a beacon entry condition. -/
def BeaconCondition.code : BeaconCondition → Nat
  | .empty => 0 | .fresh => 1 | .stale => 2

/-- Item 1's code of a position source: a station, 16 for LOCAL, 31 for none. -/
def PositionSource.code : PositionSource → Nat
  | .none => 31 | .loc => 16 | .station n => n.val

/-- Item 1's code of a followed source: a station, 31 for none. -/
def followedCode : Option Station → Nat
  | some n => n.val
  | none => 31

/-! ### SIGNON and STATUS of the station itself (R29, R32) -/

/-- The functions of the station's SIGNON (R29): all clear while no settings are held, as in PASS_ONLY. -/
def ownFunctions (s : State) : Functions :=
  { cameras := s.enabledMask, encoder := s.encoderStation, seamInput := s.seamStation, takeOff := s.takeOffEnabled }

/-- The followed beacon source that a STATUS reports (Table 2.4, Table 3.8). -/
def reportedSource (u : StripUnit) : Option Station :=
  match u.clock with
  | .following | .coasting => u.followed
  | .held => match u.source with
    | .station n => some n
    | .loc | .none => none
  | .loc | .none => none

/-- The low 16 bits of a counter (R32); a counter saturated at H'FFFFFFFF so reads 65,535. -/
def low16 (c : Word32) : Word16 := c.setWidth 16

/-- The low 16 bits of the sum of a counter over the four cameras (R32). -/
def sumLow16 (cams : Vector Camera 4) (f : Camera → Word32) : Word16 :=
  BitVec.ofNat 16 ((cams.toList.map (fun c => (f c).toNat)).sum)

/-- The camera port states field: camera i in bits 4i+3 to 4i (Table 12.3). -/
def portStatesField (cams : Vector Camera 4) : Word16 :=
  BitVec.ofNat 16 (cams[0].port.state.code + 16 * cams[1].port.state.code + 256 * cams[2].port.state.code
    + 4096 * cams[3].port.state.code)

/-- Line queue fill in hundredths (Table 2.4). -/
def queueFill (s : State) : Nat := lineOccupancy s.seg.lines * 100 / Config.lineCapacity

/-- The contents of a STATUS launched now (R31, Table 2.4). They carry no coil, as Table 2.4 and Table 12.3 have none, though R80
and 4.8.2 say that the STATUS shows the current coil: the model's DEDUCED choice between the two (log 34). -/
def ownStatus (s : State) (h : OwnHeader) : StatusContents :=
  { source := h.source, originKey := h.key, identity := s.ctl.identity.getD 0, sequence := s.ctl.sequence,
    stationState := BitVec.ofNat 8 s.ctl.state.code, clockState := BitVec.ofNat 8 s.strip.clock.code,
    followed := match reportedSource s.strip with
      | some n => BitVec.ofNat 8 n.val
      | none => 0xFF,
    portStates := portStatesField s.cams, queueFill := BitVec.ofNat 8 (queueFill s),
    easeOriginating := if s.ease.originating then 1 else 0, crcFaults := low16 s.ring.crcFaults,
    linesRefused := sumLow16 s.cams (fun c => c.adm.refused), linesMissing := sumLow16 s.cams (fun c => c.trig.missing),
    brokenLines := low16 s.take.brokenLines }

/-! ### The limiter (R140) -/

/-- The lesser of a share and the least share so far. -/
def leastShare (acc : Option Nat) (e : EaseEntry) : Option Nat :=
  if e.live then
    match acc with
    | some m => some (min m e.share.toNat)
    | none => some e.share.toNat
  else acc

/-- The effective line limit in bytes per window, none when unlimited. -/
def lineLimit (e : EaseUnit) : Option Nat := (e.table.toList.foldl leastShare none).map (· * 16)

/-- Whether the limiter allows a line parcel to be started. -/
def limiterAllows (e : EaseUnit) : Bool :=
  match lineLimit e with
  | some l => decide (e.bytes < l)
  | none => true

/-! ### Delivery port outputs (R163, Table 10.2) -/

/-- DLV_RDY. -/
def dlvReady (s : State) : Bool := s.dlv.active && !s.take.queue.isEmpty && !s.dlv.holdPin

/-- DLV_D: the word at the position of the head record, 0 with no record or while inactive. -/
def dlvData (s : State) : BitVec 64 :=
  match s.dlv.active, s.take.queue with
  | true, r :: _ => recordWord s.take.store r s.dlv.position
  | _, _ => 0

/-- DLV_LAST: high while the position is the last word of the head record. -/
def dlvLast (s : State) : Bool :=
  match s.dlv.active, s.take.queue with
  | true, r :: _ => s.dlv.position + 1 == wordCount r
  | _, _ => false

/-- The trigger output of a camera (R90). -/
def triggerOutput (s : State) (i : Cam) : Bool := s.cams[i].trig.pulse.isSome

/-! ### Service line (Section 12.3) -/

/-- Results of a status reply. -/
inductive SvcResult where
  | ok | busy | isProtected | range | unknown
deriving DecidableEq, Repr

/-- Code of a result. -/
def SvcResult.code : SvcResult → Nat
  | .ok => 0 | .busy => 1 | .isProtected => 2 | .range => 3 | .unknown => 4

/-- The status reply (R172): result, station state, write in progress and hold pending, as they stand. -/
def statusReply (s : State) (r : SvcResult) : Word16 :=
  BitVec.ofNat 16 (r.code * 8192 + s.ctl.state.code * 1024 + s.svc.write.isSome.toNat * 512 + s.svc.holdPending.toNat * 256)

/-- SV_OUT at rising edge `n` of SV_CLK in a frame, counted from 0 (R171): while SV_SEL is low the reply register is shifted out, most
significant bit first; for the edges after the sixteenth, and while SV_SEL is high, it is low. -/
def svOut (s : State) (selected : Bool) (n : Nat) : Bool := selected && decide (n < 16) && s.svc.reply.getMsbD n

/-- Two 16-bit halves as an item. -/
def halves (hi lo : Nat) : Word32 := BitVec.ofNat 32 (hi % 65536 * 65536 + lo % 65536)

/-- Item 1. -/
def summaryItem (s : State) : Word32 :=
  BitVec.ofNat 32 (s.ctl.number.val + 2 ^ 4 * s.ctl.state.code + 2 ^ 7 * s.ctl.configValid.toNat + 2 ^ 8 * s.ring.link.code
    + 2 ^ 10 * s.strip.clock.code + 2 ^ 13 * s.strip.encoder.code + 2 ^ 15 * s.strip.source.code
    + 2 ^ 20 * followedCode s.strip.followed + 2 ^ 25 * s.ease.originating.toNat)

/-- Item 2. -/
def faultItem (f : FaultFlags) : Word32 :=
  BitVec.ofNat 32 (f.encoder.toNat + 2 * f.seamInput.toNat + 4 * f.takeOff.toNat + 8 * f.cameras.toNat)

/-- Item 20. With no latest seam the origin field reads 0, the model's DESIGN CHOICE (log 18). -/
def seamItem (u : SeamUnit) : Word32 :=
  BitVec.ofNat 32 (u.list.length +
    match u.latest with
    | some r => 2 ^ 8 * r.origin.val + 2 ^ 12
    | none => 0)

/-- The coil of the latest seam, 0 when there is none, as R78 states for a BEACON. That item 19 then reads 0 too, where Table 11.2 is
silent, is the model's DESIGN CHOICE (log 18). -/
def latestCoil (u : SeamUnit) : Word16 := (u.latest.map SeamRecord.coil).getD 0
/-- The coordinate of the latest seam, 0 when there is none, as R78 states for a BEACON. That items 21 and 54 then read 0 too, where
Table 11.2 is silent, is the model's DESIGN CHOICE (log 18). -/
def latestCoord (u : SeamUnit) : Coord := (u.latest.map SeamRecord.coord).getD 0

/-- The ASSEMBLING contexts. -/
def assembling (t : TakeOffUnit) : Nat := (t.contexts.toList.filter Option.isSome).length

/-- Item 42. -/
def beaconItem (e : BeaconEntry) : Word32 :=
  BitVec.ofNat 32 (e.condition.code + 2 ^ 4 * e.hopsUsed.toNat + 2 ^ 16 * e.sequence.toNat)

/-- Item 44: the share and the units to the expiry, 0 when not live. An entry with no share reads 0 as its share, the model's
DESIGN CHOICE (log 18). -/
def easeItem (now : Time) (e : EaseEntry) : Word32 :=
  halves e.share.toNat (if e.live then (e.expiry - now).toNat else 0)

/-- Item 45. The thin factor reads 0 while no settings are held (log 18). -/
def cameraItem (s : State) (i : Cam) : Word32 :=
  let c := s.cams[i]
  BitVec.ofNat 32 (c.port.state.code + 2 ^ 4 * c.trig.fifo.length
    + 2 ^ 8 * (match s.camSettings i with
        | some t => t.thin
        | none => 0)
    + 2 ^ 16 * c.adm.phase + 2 ^ 24 * c.adm.thinnedSince.toNat)

/-- Counter `k` of item 49. -/
def cameraCounter (c : Camera) (k : Nat) : Word32 :=
  match k with
  | 0 => c.port.serial
  | 1 => c.port.produced
  | 2 => c.adm.admitted
  | 3 => c.adm.thinned
  | 4 => c.adm.refused
  | 5 => c.trig.issued
  | 6 => c.trig.overspeed
  | 7 => c.trig.suppressed
  | 8 => c.trig.skipped
  | 9 => c.trig.missing
  | 10 => c.trig.unsolicited
  | _ => 0

/-- Item 50. With the last sequence absent its field reads 0, the model's DESIGN CHOICE (log 18). -/
def rollItem (e : RollEntry) : Word32 :=
  BitVec.ofNat 32 (e.condition.code + 2 ^ 2 * e.lastSequence.isSome.toNat + 2 ^ 8 * e.missed.toNat
    + 2 ^ 16 * (e.lastSequence.getD 0).toNat)

/-- The followed source of STATUS contents in item 52's code (31 for none). -/
def itemFollowed (b : Byte) : Nat := if b = 0xFF then 31 else b.toNat % 32

/-- Item 52: all bits 0 when the contents are absent (log 18). -/
def contentsItem (e : RollEntry) : Word32 :=
  match e.contents with
  | none => 0
  | some c =>
    let port (i : Nat) : Nat := (c.portStates.extractLsb' (4 * i) 3).toNat
    BitVec.ofNat 32 (c.stationState.toNat % 8 + 2 ^ 3 * (c.clockState.toNat % 8) + 2 ^ 6 * itemFollowed c.followed
      + 2 ^ 11 * port 0 + 2 ^ 14 * port 1 + 2 ^ 17 * port 2 + 2 ^ 20 * port 3 + 2 ^ 23 * (c.queueFill.toNat % 128)
      + 2 ^ 30 * (c.easeOriginating.toNat % 2) + 2 ^ 31)

/-- Item 56: all bits 0 when the functions are absent (log 18). -/
def functionsItem (e : RollEntry) : Word32 :=
  match e.functions with
  | none => 0
  | some f =>
    BitVec.ofNat 32 (f.cameras.toNat + 2 ^ 4 * f.encoder.toNat + 2 ^ 5 * f.seamInput.toNat + 2 ^ 6 * f.takeOff.toNat + 2 ^ 7)

/-- Items 57 and 58: two fields of the latest STATUS contents, 0 when absent. -/
def contentsHalves (e : RollEntry) (hi lo : StatusContents → Word16) : Word32 :=
  match e.contents with
  | none => 0
  | some c => halves (hi c).toNat (lo c).toNat

/-- An item of a station entry: 0 for an index above 15 (R173). -/
def stationItem (index : Nat) (f : Station → Word32) : Word32 := if h : index < 16 then f ⟨index, h⟩ else 0

/-- An item of a camera: 0 for an index above 3 (R173). -/
def cameraItemAt (index : Nat) (f : Cam → Word32) : Word32 := if h : index < 4 then f ⟨index, h⟩ else 0

/-- The value that ITEM captures (R173, Table 11.2). -/
def serviceItem (s : State) (index number : Nat) : Word32 :=
  match number with
  | 0 => s.ctl.identity.getD 0
  | 1 => summaryItem s
  | 2 => faultItem s.store.faults
  | 3 => BitVec.ofNat 32 (lineOccupancy s.seg.lines + 2 ^ 24 * s.seg.control.length)
  | 4 => s.ring.crcFaults
  | 5 => s.ring.unknownKinds
  | 6 => s.ring.orphans
  | 7 => s.ring.transitOverruns
  | 8 => s.ring.partialDrops
  | 9 => s.strip.count
  | 10 => s.strip.x.setWidth 32
  | 11 => s.strip.xhat.setWidth 32
  | 12 => halves (s.strip.xhat.toNat / 2 ^ 32) (s.strip.x.toNat / 2 ^ 32)
  | 13 => s.strip.residue.setWidth 32
  | 14 => s.strip.vs.signExtend 32
  | 15 => s.strip.encoderErrors
  | 16 => s.strip.underrunClamps
  | 17 => s.strip.indexPulses
  | 18 => s.strip.sourceSwitches
  | 19 => halves s.seam.highest.toNat (latestCoil s.seam).toNat
  | 20 => seamItem s.seam
  | 21 => (latestCoord s.seam).setWidth 32
  | 22 => s.seam.bounces
  | 23 => s.seam.captureOverflows
  | 24 => s.seam.unplaced
  | 25 => s.seam.placed
  | 26 => s.seam.merged
  | 27 => s.seam.lost
  | 28 => s.seg.marksDropped
  | 29 => s.ease.rate.setWidth 32
  | 30 => match lineLimit s.ease with
    | some l => BitVec.ofNat 32 l
    | none => 0xFFFFFFFF
  | 31 => s.ease.easesSent
  | 32 => BitVec.ofNat 32 (s.take.free.length + 2 ^ 10 * assembling s.take + 2 ^ 16 * s.take.queue.length)
  | 33 => halves s.dlv.position (match s.take.queue with
    | r :: _ => wordCount r
    | [] => 0)
  | 34 => s.take.linesTaken
  | 35 => s.take.noContext
  | 36 => s.take.orphanSegments
  | 37 => s.take.brokenLines
  | 38 => s.take.storeFull
  | 39 => s.take.deliveryOverflow
  | 40 => s.dlv.takesIgnored
  | 41 => s.dlv.recordsCut
  | 42 => stationItem index (fun n => beaconItem s.strip.table[n])
  | 43 => stationItem index (fun n => s.strip.table[n].coord.setWidth 32)
  | 44 => stationItem index (fun n => easeItem s.time s.ease.table[n])
  | 45 => cameraItemAt index (fun i => cameraItem s i)
  | 46 => cameraItemAt index (fun i => halves s.cams[i].port.lastLength (s.cams[i].port.locked.getD 0))
  | 47 => cameraItemAt index (fun i => s.cams[i].trig.coil.setWidth 32)
  | 48 => cameraItemAt index (fun i => s.cams[i].trig.current)
  | 49 => cameraItemAt (index / 16) (fun i => cameraCounter s.cams[i] (index % 16))
  | 50 => rollItem s.svc.snapshot
  | 51 => s.svc.snapshot.identity.getD 0
  | 52 => contentsItem s.svc.snapshot
  | 53 => BitVec.ofNat 32 s.ease.bytes
  | 54 => BitVec.ofNat 32 ((latestCoord s.seam).toNat / 2 ^ 32)
  | 55 => stationItem index (fun n => BitVec.ofNat 32 (s.strip.table[n].coord.toNat / 2 ^ 32))
  | 56 => functionsItem s.svc.snapshot
  | 57 => contentsHalves s.svc.snapshot StatusContents.crcFaults StatusContents.linesRefused
  | 58 => contentsHalves s.svc.snapshot StatusContents.linesMissing StatusContents.brokenLines
  | _ => 0

end Sys2Proof.Machine
end

