-- ==== Sys2Proof/Machine/Outbound.lean ====
section
/-! DEFINITION. The outbound port (Section 1.5) and the control queue (Section 7.5): the outbound-free event, the
scheduler's choice, what each kind of parcel does at its launch, and the placing of control requests. -/
namespace Sys2Proof.Machine

/-! ### The pending-return list and OPEN (R27) -/

/-- A JOINING or RUNNING station enters OPEN, and the SIGNON timer stops (R25, R27); other states stay. -/
def enterOpen (s : State) : State :=
  match s.ctl.state with
  | .joining | .running => { s with ctl := { s.ctl with state := .ringOpen, signonTimer := none } }
  | .start | .passOnly | .ringOpen | .duplicate => s

/-- A launched STATUS joins the pending-return list; a fifth record makes the oldest overdue first (R27). -/
def watchReturn (q : Word16) (s : State) : State :=
  let r : ReturnRecord := { sequence := q, launch := s.time }
  if s.ctl.pendingReturn.length < Config.pendingReturns then
    { s with ctl := { s.ctl with pendingReturn := s.ctl.pendingReturn ++ [r] } }
  else
    enterOpen { s with ctl := { s.ctl with pendingReturn := s.ctl.pendingReturn.drop 1 ++ [r] } }

/-! ### Launches (R17, R31, R52, R136) -/

/-- The port begins to send a parcel taken from queue `q`; its CRC is computed anew (R13, R17). -/
def startSending (q : OutQueue) (content : List Byte) (s : State) : State :=
  { s with ring := { s.ring with outbound := some { queue := q, bytes := withCrc content }, began := s.time } }

/-- The own roll entry written from the contents launched (R37). -/
def writeOwnEntry (c : StatusContents) (s : State) : State :=
  let e := s.ctl.roll[s.ctl.number]
  let cond := match e.condition with
    | .absent | .silent | .present => RollCondition.present
    | .clash => .clash
  let e' : RollEntry :=
    { e with condition := cond, identity := some c.identity, lastSequence := some c.sequence, receipt := s.time, missed := 0,
             functions := some (ownFunctions s), contents := some c }
  { s with ctl := { s.ctl with roll := put s.ctl.roll s.ctl.number e' } }

/-- The launch of an own STATUS (R31): its contents are taken, the sequence counter moves on, the record joins the
pending-return list, and the own roll entry is written. -/
def launchStatus (h : OwnHeader) (s : State) : State :=
  let c := ownStatus s h
  let s1 := startSending .control (statusBytes h c) s
  let s2 := { s1 with ctl := { s1.ctl with sequence := s1.ctl.sequence + 1 } }
  writeOwnEntry c (watchReturn c.sequence s2)

/-- The launch of a control parcel that has left the control queue. -/
def launchControl (p : ControlParcel) (s : State) : State :=
  match p.body with
  | .signon identity f => startSending .control (signonBytes p.header identity f) s
  | .status => launchStatus p.header s
  | .beacon coord speed seq coil seam sample =>
    startSending .control
      (beaconBytes p.header coord speed (satAdd 0 (unitsSince s.time sample)) seq coil seam) s
  | .mark coord coil => startSending .control (markBytes p.header coord coil) s
  | .ease share =>
    startSending .control (easeBytes p.header share) { s with ease := { s.ease with easesSent := satInc s.ease.easesSent } }

/-- A transit parcel as it leaves: a BEACON with its age increased by its residence time (R17). -/
def departing (now : Time) (e : TransitEntry) : List Byte :=
  if kindField e.content = some .beacon then addAge e.content (unitsSince now e.arrival) else e.content

/-! ### The scheduler (R15, R16, R132) -/

/-- What the scheduler chooses at an outbound-free event. -/
inductive Choice where
  | transit | control | line | idle
deriving DecidableEq, Repr

/-- Whether the state lets a control parcel of this kind be inserted (R16). -/
def controlAllowed : StationState → ControlBody → Bool
  | .passOnly, .signon _ _ => true
  | .passOnly, .status => true
  | .passOnly, _ => false
  | .duplicate, .status => true
  | .duplicate, _ => false
  | .start, _ => true
  | .joining, _ => true
  | .running, _ => true
  | .ringOpen, _ => true

/-- The control queue cleared down to an allowed parcel at step 2 (R16): the disallowed heads are discarded unsent. -/
def clearDown (s : State) : State :=
  if transitOccupancy s.ring.transit ≤ Config.insertionMark then
    { s with seg := { s.seg with control := s.seg.control.dropWhile (fun p => !controlAllowed s.ctl.state p.body) } }
  else s

/-- The first of the five choices that applies (R15, R16), with the control queue cleared down. -/
def choose (s : State) : Choice :=
  if Config.insertionMark < transitOccupancy s.ring.transit then .transit
  else if s.ctl.state != .start && !s.seg.control.isEmpty then .control
  else if s.ctl.state.inserts && !s.seg.lines.isEmpty && limiterAllows s.ease then .line
  else if !s.ring.transit.isEmpty then .transit
  else .idle

/-- The ease unit counts the event: W with a line waiting, Bk when that decision went to transit, and u for a line parcel
started (R132). -/
def countDecision (c : Choice) (s : State) : State :=
  match s.seg.lines with
  | [] => s
  | p :: _ =>
    { s with ease :=
      { s.ease with waiting := s.ease.waiting + 1,
                    blocked := if c = .transit then s.ease.blocked + 1 else s.ease.blocked,
                    bytes := if c = .line then s.ease.bytes + p.size else s.ease.bytes } }

/-- The chosen head leaves its queue and becomes the outbound parcel (R13). -/
def sendChosen (c : Choice) (s : State) : State :=
  match c with
  | .transit => match s.ring.transit with
    | [] => s
    | e :: rest => startSending .transit (departing s.time e) { s with ring := { s.ring with transit := rest } }
  | .control => match s.seg.control with
    | [] => s
    | p :: rest => launchControl p { s with seg := { s.seg with control := rest } }
  | .line => match s.seg.lines with
    | [] => s
    | p :: rest => startSending .line (lineBytes p) { s with seg := { s.seg with lines := rest } }
  | .idle => s

/-- An outbound-free event (R14, R15): the scheduler makes its choice. -/
def outboundFree (s : State) : State :=
  let s1 := clearDown s
  let c := choose s1
  sendChosen c (countDecision c s1)

/-! ### Alignment runs (R14) -/

/-- Whether an alignment run is due by the end of the last run of 64 idle characters. -/
def runDue (s : State) : Bool :=
  match s.ring.lastRunEnd with
  | none => true
  | some t => reached s.time t Config.alignmentAge

/-- The port begins an alignment run, in IDLE. -/
def startRun (s : State) : State := { s with ring := { s.ring with aligning := true, began := s.time } }

/-- The port comes free at a completion of sending, with no idle character sent yet (R14). -/
def freeAfterSending (s : State) : State := if runDue s then startRun s else outboundFree s

/-- A parcel has joined a queue, or the limiter has changed to allowing (R14). While the port is sending, or sends an
alignment run, the choice at its end sees it. Otherwise the port is idle: an idle run in progress that has reached 64
characters counts as ending now, which is free while the run is less than two units old (log 5). -/
def freeWhileIdle (s : State) : State :=
  if s.ring.outbound.isSome || s.ring.aligning then s
  else
    let long := decide (2 ≤ s.ring.idleUnits)
    let hit := long || Config.idleRunReached s.freeCount
    let s1 := if long then s else s.bump
    let s2 := { s1 with ring := { s1.ring with lastRunEnd := bif hit then some s.time else s.ring.lastRunEnd } }
    if runDue s && !hit then startRun s2 else outboundFree s2

/-! ### Control requests (R125, R126) -/

/-- The kind of a control parcel. -/
def ControlBody.kind : ControlBody → Kind
  | .signon _ _ => .signon
  | .status => .status
  | .beacon _ _ _ _ _ _ => .beacon
  | .mark _ _ => .mark
  | .ease _ => .ease

/-- Whether a queued parcel is of the kind of `b`. -/
def sameKind (b : ControlBody) (p : ControlParcel) : Bool := p.body.kind == b.kind

/-- The queue with the first parcel of the kind replaced in its position. -/
def replaceKind (p : ControlParcel) : List ControlParcel → List ControlParcel
  | [] => []
  | q :: qs => if sameKind p.body q then p :: qs else q :: replaceKind p qs

/-- A parcel joins the control queue at the tail, which is an outbound-free event while the port is IDLE (R124). -/
def joinControl (p : ControlParcel) (s : State) : State :=
  freeWhileIdle { s with seg := { s.seg with control := s.seg.control ++ [p] } }

/-- A SIGNON, STATUS, BEACON or EASE request (R125): it replaces a queued parcel of its kind in its position, which is no
join, or joins at the tail. -/
def placeRequest (b : ControlBody) (s : State) : State :=
  let p : ControlParcel := { header := s.ownHeader, body := b }
  if s.seg.control.any (sameKind b) then
    { s with seg := { s.seg with control := replaceKind p s.seg.control } }
  else joinControl p s

/-- The MARKs queued. -/
def marksQueued (q : List ControlParcel) : Nat := (q.filter (fun p => p.body.kind == .mark)).length

/-- A MARK request (R126): appended while fewer than twelve MARKs are queued, else dropped and counted. -/
def placeMark (coord : Coord) (coil : Word16) (s : State) : State :=
  if marksQueued s.seg.control < Config.markPlaces then
    joinControl { header := s.ownHeader, body := .mark coord coil } s
  else { s with seg := { s.seg with marksDropped := satInc s.seg.marksDropped } }

/-- A SIGNON request (R29). -/
def requestSignon (s : State) : State := placeRequest (.signon (s.ctl.identity.getD 0) (ownFunctions s)) s

/-- A STATUS request (R30). -/
def requestStatus (s : State) : State := placeRequest .status s

/-- A BEACON request (R51): filled now, with the sequence counter moved on. -/
def requestBeacon (s : State) : State :=
  let b : ControlBody :=
    .beacon s.strip.xhat s.strip.vs s.strip.beaconSequence (latestCoil s.seam) (latestCoord s.seam) s.time
  placeRequest b { s with strip := { s.strip with beaconSequence := s.strip.beaconSequence + 1 } }

/-- An EASE request (R136). -/
def requestEase (share : Word16) (s : State) : State := placeRequest (.ease share) s

/-! ### Limiter changes (R141) -/

/-- After the ease unit has acted: a change of the limiter from refusing to allowing is an outbound-free event while the port
is IDLE with a line waiting. `before` is the limiter's answer before. -/
def reportLimiter (before : Bool) (s : State) : State :=
  if !before && limiterAllows s.ease && !s.seg.lines.isEmpty then freeWhileIdle s else s

/-! ### Meanings -/

/-- The characters of a parcel being sent: its bytes and its two delimiters (R13). -/
def charsToSend (p : OutParcel) : Nat := p.bytes.length + 2

/-- Whether enough units have passed for so many characters to have been sent at 125 in a unit (R13, log 5). -/
def maySent (s : State) (chars : Nat) : Bool := reached s.time s.ring.began (chars / Config.charsPerUnit)

/-- Whether so many characters have been sent at the latest by the end of this unit (R13, log 5). -/
def mustSent (s : State) (chars : Nat) : Bool :=
  reached s.time s.ring.began ((chars + (Config.charsPerUnit - 1)) / Config.charsPerUnit)

/-- SEND_COMPLETION (R13): with a parcel being sent that can have left, it is released, the port returns to IDLE and an
outbound-free event follows. With the port IDLE there is no sending to complete. -/
def execSendCompletion (s : State) : Host.Outcome State Fault Refusal :=
  .next <|
    match s.ring.outbound with
    | none => s
    | some p =>
      if maySent s (charsToSend p) then
        freeAfterSending { s with ring := { s.ring with outbound := none, idleUnits := 0 } }
      else s

/-- ALIGNMENT_RUN_END (R14): the outbound-free event that waited for the run occurs. The idle run in progress has reached 64
characters. -/
def execAlignmentRunEnd (s : State) : Host.Outcome State Fault Refusal :=
  .next <|
    if s.ring.aligning then
      outboundFree { s with ring := { s.ring with aligning := false, lastRunEnd := some s.time, idleUnits := 2 } }
    else s

end Sys2Proof.Machine
end

