-- ==== Sys2Proof/Machine/Beacons.lean ====
section
/-! DEFINITION. The beacon timer of an encoder station (Section 3.5), which events of several blocks start and stop. -/
namespace Sys2Proof.Machine

/-- The four conditions under which the beacon timer runs (R50). -/
def beaconing (s : State) : Bool :=
  s.encoderStation && s.strip.clock == .loc && s.strip.aligned && s.ctl.state.inserts

/-- The beacon timer after an event that may have changed a condition of R50: it starts with a request at once when the last
condition has become true, and stops when one has become false. -/
def recheckBeacon (s : State) : State :=
  match beaconing s, s.strip.beaconTimer with
  | true, none => requestBeacon { s with strip := { s.strip with beaconTimer := some s.time } }
  | false, some _ => { s with strip := { s.strip with beaconTimer := none } }
  | true, some _ => s
  | false, none => s

/-- BEACON_TIMER_EXPIRY (R50): with the period over, the next one begins and a BEACON request is placed. -/
def execBeaconTimerExpiry (s : State) : Host.Outcome State Fault Refusal :=
  .next <|
    match s.strip.beaconTimer with
    | none => s
    | some t =>
      if reached s.time t Config.beaconPeriod then
        requestBeacon { s with strip := { s.strip with beaconTimer := some (nextPeriod t Config.beaconPeriod) } }
      else s

end Sys2Proof.Machine
end

