-- ==== Sys2Proof/Machine/Control.lean ====
section
/-! DEFINITION. Station control (Section 2): station states, SIGNON and STATUS timers, own returns, duplicate numbers and the
station roll. -/
namespace Sys2Proof.Machine

/-! ### State changes -/

/-- A JOINING or OPEN station enters RUNNING at an own return; leaving JOINING stops the SIGNON timer (R26). -/
def enterRunning (s : State) : State :=
  match s.ctl.state with
  | .joining => { s with ctl := { s.ctl with state := .running, signonTimer := none } }
  | .ringOpen => { s with ctl := { s.ctl with state := .running } }
  | .start | .passOnly | .running | .duplicate => s

/-- Entry into DUPLICATE (R28): the SIGNON timer stops, the ease unit stops originating (R137) and beaconing stops (R50). -/
def enterDuplicate (s : State) : State :=
  recheckBeacon
    { s with ctl := { s.ctl with state := .duplicate, signonTimer := none },
             ease := { s.ease with originating := false, phase := false } }

/-- The inbound link has entered DARK (R25). -/
def linkDark (s : State) : State :=
  match s.ctl.state with
  | .joining | .running => enterOpen s
  | .passOnly => { s with ctl := { s.ctl with signonTimer := none } }
  | .start | .ringOpen | .duplicate => s

/-- The inbound link has entered UP (R25). -/
def linkUp (s : State) : State :=
  match s.ctl.state with
  | .joining | .passOnly => requestSignon { s with ctl := { s.ctl with signonTimer := some s.time } }
  | .start | .running | .ringOpen | .duplicate => s

/-! ### Own returns (R26, R27) -/

/-- The pending-return list without the record of sequence `q` and every older one; as it is when it holds none. -/
def dropReturned (q : Word16) (l : List ReturnRecord) : List ReturnRecord :=
  if l.any (fun r => r.sequence == q) then (l.dropWhile (fun r => r.sequence != q)).drop 1 else l

/-- An own SIGNON returns. -/
def ownSignonReturn (s : State) : State :=
  if s.ctl.state = .start then s else enterRunning s

/-- An own STATUS returns. -/
def ownStatusReturn (p : List Byte) (s : State) : State :=
  if s.ctl.state = .start then s
  else
    enterRunning
      { s with ctl := { s.ctl with pendingReturn := dropReturned (statusField p).sequence s.ctl.pendingReturn } }

/-! ### The roll (R33 to R36) -/

/-- The state with one roll entry changed. -/
def onRoll (n : Station) (f : RollEntry → RollEntry) (s : State) : State :=
  { s with ctl := { s.ctl with roll := change s.ctl.roll n f } }

/-- The identity change of R35, made when the entry holds another identity. -/
def identityChange (now : Time) (id : Word32) (e : RollEntry) : RollEntry :=
  match e.identity with
  | some old =>
    if old = id then e
    else
      { e with condition := .clash, identity := some id, identityChange := now, lastSequence := none, missed := 0,
               functions := none }
  | none => e

/-- A SIGNON's part in an entry, after any identity change (R34). -/
def signonEntry (now : Time) (id : Word32) (f : Functions) (e : RollEntry) : RollEntry :=
  if e.condition = .absent then
    { e with condition := .present, identity := some id, receipt := now, functions := some f }
  else { e with functions := some f }

/-- The missed count after a STATUS of sequence `q` (R36). -/
def missedAfter (q : Word16) (e : RollEntry) : BitVec 8 :=
  match e.lastSequence with
  | some l => satAdd e.missed (q - l - 1).toNat
  | none => e.missed

/-- A STATUS's part in an entry, after any identity change (R36). An entry that holds no identity takes the parcel's: R36 does
not list it, and this is the model's DEDUCED reading (log 32). -/
def statusEntry (now : Time) (c : StatusContents) (e : RollEntry) : RollEntry :=
  let cond := match e.condition with
    | .absent | .silent | .present => RollCondition.present
    | .clash => .clash
  { e with condition := cond, identity := some c.identity, lastSequence := some c.sequence, receipt := now,
           missed := missedAfter c.sequence e, contents := some c }

/-- A parcel of the own number with another identity (R28, R35): the own entry goes to CLASH, and the station to DUPLICATE. -/
def duplicateSeen (s : State) : State :=
  let s1 := onRoll s.ctl.number (fun e => { e with condition := .clash, identityChange := s.time }) s
  if s.ctl.state = .duplicate then s1 else enterDuplicate s1

/-- A peer SIGNON offered to station control (R28, R34). -/
def peerSignon (p : List Byte) (s : State) : State :=
  let n := sourceField p
  let id := identityField p
  if s.ctl.state = .start then s
  else if n = s.ctl.number then (if some id = s.ctl.identity then s else duplicateSeen s)
  else onRoll n (fun e => signonEntry s.time id (functionsField p) (identityChange s.time id e)) s

/-- A peer STATUS offered to station control (R28, R36). -/
def peerStatus (p : List Byte) (s : State) : State :=
  let n := sourceField p
  let c := statusField p
  if s.ctl.state = .start then s
  else if n = s.ctl.number then (if some c.identity = s.ctl.identity then s else duplicateSeen s)
  else onRoll n (fun e => statusEntry s.time c (identityChange s.time c.identity e)) s

/-! ### Meanings -/

/-- SIGNON_TIMER_EXPIRY (R29): with the period over, the next one begins and a SIGNON request is placed. -/
def execSignonTimerExpiry (s : State) : Host.Outcome State Fault Refusal :=
  .next <|
    match s.ctl.signonTimer with
    | none => s
    | some t =>
      if reached s.time t Config.signonPeriod then
        requestSignon { s with ctl := { s.ctl with signonTimer := some (nextPeriod t Config.signonPeriod) } }
      else s

/-- STATUS_TIMER_EXPIRY (R30): with the period over, the next one begins and a STATUS request is placed. -/
def execStatusTimerExpiry (s : State) : Host.Outcome State Fault Refusal :=
  .next <|
    match s.ctl.statusTimer with
    | none => s
    | some t =>
      if reached s.time t Config.statusPeriod then
        requestStatus { s with ctl := { s.ctl with statusTimer := some (nextPeriod t Config.statusPeriod) } }
      else s

/-- Whether the return watch has expired (R27). -/
def returnWatchDue (s : State) : Bool :=
  match s.ctl.pendingReturn with
  | [] => false
  | r :: _ => reached s.time r.launch Config.returnWatch

/-- RETURN_WATCH_EXPIRY (R27): the oldest record is removed as overdue, and a JOINING or RUNNING station enters OPEN. -/
def execReturnWatchExpiry (s : State) : Host.Outcome State Fault Refusal :=
  .next <|
    if returnWatchDue s then
      enterOpen { s with ctl := { s.ctl with pendingReturn := s.ctl.pendingReturn.drop 1 } }
    else s

/-- Whether the clash expiry of entry `n` has fallen (R35). -/
def clashDue (s : State) (n : Station) : Bool :=
  s.ctl.roll[n].condition == .clash && reached s.time s.ctl.roll[n].identityChange Config.clashTime

/-- CLASH_EXPIRY (R35): the entry returns to PRESENT. -/
def execClashExpiry (n : Station) (s : State) : Host.Outcome State Fault Refusal :=
  .next <| if clashDue s n then onRoll n (fun e => { e with condition := .present }) s else s

/-- Whether the silence expiry of entry `n` has fallen (R38). An entry that goes to CLASH with an old receipt time, from ABSENT or
from SILENT, is due at once: the model's DEDUCED reading (log 30). -/
def silenceDue (s : State) (n : Station) : Bool :=
  (s.ctl.roll[n].condition == .present || s.ctl.roll[n].condition == .clash)
    && reached s.time s.ctl.roll[n].receipt Config.silenceTime

/-- SILENCE_EXPIRY (R38): the entry becomes SILENT. -/
def execSilenceExpiry (n : Station) (s : State) : Host.Outcome State Fault Refusal :=
  .next <| if silenceDue s n then onRoll n (fun e => { e with condition := .silent }) s else s

end Sys2Proof.Machine
end

