-- ==== Sys2Proof/Machine/Ease.lean ====
section
/-! DEFINITION. The ease unit (Section 8): the window, the own rate, origination, and the ease table. -/
namespace Sys2Proof.Machine

/-- The state with the ease unit changed. -/
def onEase (f : EaseUnit → EaseUnit) (s : State) : State := { s with ease := f s.ease }

/-! ### The window expiry (R133 to R135) -/

/-- The smoothed own rate after a window of `u` bytes (R133). -/
def smoothRate (a : Word16) (u : Nat) : Word16 :=
  BitVec.ofInt 16 (clampInt 0 65535 (a.toNat + floorDiv ((u / 16 : Nat) - (a.toNat : Int)) 8))

/-- Whether the window was blocked (R134). -/
def windowBlocked (e : EaseUnit) : Bool := decide (0 < e.waiting ∧ e.waiting ≤ 2 * e.blocked)

/-- The origination test (R134). -/
def originate (s : State) : State :=
  let occupancy := lineOccupancy s.seg.lines
  if !s.ease.originating && s.ctl.state.admits && decide (Config.easeOnMark ≤ occupancy) && windowBlocked s.ease then
    onEase (fun e => { e with originating := true, phase := false }) s
  else if s.ease.originating && decide (occupancy < Config.easeOffMark) then
    onEase (fun e => { e with originating := false, phase := false }) s
  else s

/-- The renewal (R135). -/
def renew (s : State) : State :=
  if s.ease.originating then
    if s.ease.phase then onEase (fun e => { e with phase := false }) s
    else
      requestEase (BitVec.ofNat 16 (max s.ease.rate.toNat Config.minShare)) (onEase (fun e => { e with phase := true }) s)
  else s

/-- The three window counters set to 0 (R131). -/
def clearWindow (s : State) : State := onEase (fun e => { e with bytes := 0, waiting := 0, blocked := 0 }) s

/-- A window expiry (R133): A is smoothed, origination and renewal are applied, and last the counters become 0; a change of
the limiter to allowing is reported (R141). -/
def windowExpiry (s : State) : State :=
  let s1 := renew (originate (onEase (fun e => { e with rate := smoothRate e.rate e.bytes }) s))
  reportLimiter (limiterAllows s1.ease) (clearWindow s1)

/-! ### The ease table (R138, R139) -/

/-- An EASE offered to the ease unit (R138, R141). -/
def easeOffer (p : List Byte) (s : State) : State :=
  let n := sourceField p
  if s.ctl.state.runs && n != s.ctl.number then
    let e : EaseEntry :=
      { share := BitVec.ofNat 16 (max (easeShare p).toNat Config.minShare), expiry := nextPeriod s.time Config.easeLife,
        live := true }
    reportLimiter (limiterAllows s.ease) (onEase (fun u => { u with table := put u.table n e }) s)
  else s

/-- Whether the expiry time of ease entry `n` has been reached (R139). -/
def easeDue (s : State) (n : Station) : Bool :=
  s.ease.table[n].live && reached s.time (s.ease.table[n].expiry - BitVec.ofNat 32 Config.easeLife) Config.easeLife

/-! ### Meanings -/

/-- EASE_WINDOW_EXPIRY (R133): with the window over, the next one begins. -/
def execEaseWindowExpiry (s : State) : Host.Outcome State Fault Refusal :=
  .next <|
    if reached s.time s.ease.windowTimer Config.easeWindow then
      windowExpiry (onEase (fun e => { e with windowTimer := nextPeriod e.windowTimer Config.easeWindow }) s)
    else s

/-- EASE_ENTRY_EXPIRY (R139, R141): the entry becomes not live; its share is kept. -/
def execEaseEntryExpiry (n : Station) (s : State) : Host.Outcome State Fault Refusal :=
  .next <|
    if easeDue s n then
      reportLimiter (limiterAllows s.ease)
        (onEase (fun u => { u with table := change u.table n (fun e => { e with live := false }) }) s)
    else s

end Sys2Proof.Machine
end

