-- ==== Sys2Proof/Machine/Seams.lean ====
section
/-! DEFINITION. The seam unit (Section 4): the seam input and its captures, MARKs, latest-seam records and the seam list. -/
namespace Sys2Proof.Machine

/-- The state with the seam unit changed. -/
def onSeam (f : SeamUnit → SeamUnit) (s : State) : State := { s with seam := f s.seam }

/-! ### The seam list (R77 to R80) -/

/-- Whether two seam coordinates differ by 2,000 su or less (R77). -/
def within (a b : Coord) : Bool :=
  decide (a.toNat ≤ b.toNat + Config.mergeDistance ∧ b.toNat ≤ a.toNat + Config.mergeDistance)

/-- The entry placed after every entry of lower S and before every entry of higher S (R77). -/
def insertSeam (e : SeamEntry) : List SeamEntry → List SeamEntry
  | [] => [e]
  | x :: xs => if e.coord.toNat < x.coord.toNat then e :: x :: xs else x :: insertSeam e xs

/-- Camera `i`'s flag in a new entry of coordinate `c` (R77): set when the camera is enabled and counts its coil from an
origin at or above S. -/
def bornPassed (s : State) (c : Coord) (i : Cam) : Bool :=
  s.camEnabled i && decide (c.toNat ≤ s.cams[i].trig.origin.toNat)

/-- The passed-by mask of a new entry (R77). -/
def bornMask (s : State) (c : Coord) : BitVec 4 :=
  BitVec.ofNat 4 ((bornPassed s c 0).toNat + 2 * (bornPassed s c 1).toNat + 4 * (bornPassed s c 2).toNat
    + 8 * (bornPassed s c 3).toNat)

/-- Whether an entry leaves the list: every enabled camera has passed it (R79), or, with no camera enabled, X̂ is at or above
it (R80). -/
def retired (s : State) (e : SeamEntry) : Bool :=
  if s.enabledMask = 0 then decide (e.coord.toNat ≤ s.strip.xhat.toNat)
  else s.enabledMask &&& ~~~ e.passed == 0

/-- The unit's part in an insertion: the new entry, the highest coil seen and the latest-seam record (R77, R78). The
retirement tests are applied to the new entry at once. -/
def insertRecord (r : SeamRecord) (s : State) : State :=
  let e : SeamEntry := { coord := r.coord, coil := r.coil, origin := r.origin, passed := bornMask s r.coord }
  onSeam
    (fun u =>
      { u with list := if retired s e then u.list else insertSeam e u.list,
               highest := if u.highest.toNat ≤ r.coil.toNat then r.coil else u.highest,
               latest := if u.highest.toNat ≤ r.coil.toNat then some r else u.latest }) s

/-- A record offered to the seam list (R77). -/
def offerSeam (r : SeamRecord) (s : State) : State :=
  if s.seam.list.any (fun e => within e.coord r.coord) then onSeam (fun u => { u with merged := satInc u.merged }) s
  else if Config.seamEntries ≤ s.seam.list.length then onSeam (fun u => { u with lost := satInc u.lost }) s
  else insertRecord r s

/-! ### Records from peers (R75, R76) -/

/-- A MARK offered to the seam unit (R75). -/
def markOffer (p : List Byte) (s : State) : State :=
  if s.ctl.state.runs then offerSeam { coord := markCoord p, coil := markCoil p, origin := sourceField p } s else s

/-- The latest-seam record of a BEACON offered to the seam unit (R76). -/
def latestSeamOffer (p : List Byte) (s : State) : State :=
  if s.ctl.state.runs && decide (s.seam.highest.toNat < (beaconCoil p).toNat) then
    offerSeam { coord := beaconSeam p, coil := beaconCoil p, origin := sourceField p } s
  else s

/-- The kept latest-seam record, offered at an entry into JOINING (R81). -/
def offerKeptSeam (s : State) : State :=
  match s.seam.latest with
  | some r => offerSeam r s
  | none => s

/-! ### Captures (R72, R73) -/

/-- An accepted edge fills the first free capture record, or is lost (R72). -/
def capture (c : Capture) (u : SeamUnit) : SeamUnit :=
  match u.capture0, u.capture1 with
  | none, _ => { u with capture0 := some c, olderIsOne := true }
  | some _, none => { u with capture1 := some c, olderIsOne := false }
  | some _, some _ => { u with captureOverflows := satInc u.captureOverflows }

/-- Whether a clock state places no capture (R73). -/
def unplaceable : ClockState → Bool
  | .held | .none => true
  | .loc | .following | .coasting => false

/-- A capture placed as a seam (R73, R74). -/
def placeCapture (t : Settings) (c : Capture) (s : State) : State :=
  let r : SeamRecord :=
    { coord := coordOf (c.xhat.toNat - t.detectorOffset), coil := satInc s.seam.highest, origin := s.ctl.number }
  let s1 := onSeam (fun u => { u with placed := satInc u.placed }) s
  let s2 := if s1.ctl.state.inserts then placeMark r.coord r.coil s1 else s1
  offerSeam r s2

/-- One capture record processed (R73): dropped as unplaced, or placed. -/
def processCapture (c : Capture) (s : State) : State :=
  if unplaceable c.clock || unplaceable s.strip.clock then onSeam (fun u => { u with unplaced := satInc u.unplaced }) s
  else
    match s.store.settings with
    | some t => placeCapture t c s
    | none => s

/-- The full capture records, the older first (R72). -/
def captures (u : SeamUnit) : List Capture :=
  if u.olderIsOne then u.capture1.toList ++ u.capture0.toList else u.capture0.toList ++ u.capture1.toList

/-- The seam unit's part of a coordinate update (R73, R80): each full record is processed and becomes free, and at a station
with no enabled camera the entries that X̂ has reached leave the list. That the captures go before the retirement is the model's
DESIGN CHOICE (log 33). -/
def seamUpdate (s : State) : State :=
  if s.ctl.state.runs then
    let s1 := onSeam (fun u => { u with capture0 := none, capture1 := none }) s
    let s2 := (captures s.seam).foldl (fun t c => processCapture c t) s1
    if s2.enabledMask = 0 then onSeam (fun u => { u with list := u.list.filter (fun e => !retired s2 e) }) s2 else s2
  else s

/-! ### Meanings -/

/-- SEAM_EDGE (R71): a falling edge, accepted with X̂ at or above the lockout end, else a bounce. -/
def execSeamEdge (s : State) : Host.Outcome State Fault Refusal :=
  .next <|
    match s.store.settings with
    | none => s
    | some t =>
      if s.ctl.state.runs && t.seamInput then
        if s.seam.lockoutEnd.toNat ≤ s.strip.xhat.toNat then
          onSeam
            (fun u =>
              capture { xhat := s.strip.xhat, clock := s.strip.clock }
                { u with lockoutEnd := coordOf (s.strip.xhat.toNat + t.lockout) }) s
        else onSeam (fun u => { u with bounces := satInc u.bounces }) s
      else s

end Sys2Proof.Machine
end

