-- ==== Sys2Proof/Machine/Strip.lean ====
section
/-! DEFINITION. The strip position unit (Section 3): quadrature decoder, scaling, speed, beacon table, strip clock states,
follower estimate and start-up alignment. -/
namespace Sys2Proof.Machine

/-- The state with the strip position unit changed. -/
def onStrip (f : StripUnit → StripUnit) (s : State) : State := { s with strip := f s.strip }

/-! ### The quadrature decoder (R42, R43) -/

/-- The count of a valid step with the direction normal (Table 3.2): +1 along 00, 01, 11, 10 and back to 00. -/
def stepSign (oldA oldB newA newB : Bool) : Int :=
  match oldA, oldB, newA, newB with
  | false, false, false, true => 1
  | false, true, true, true => 1
  | true, true, true, false => 1
  | true, false, false, false => 1
  | false, false, true, false => -1
  | false, true, false, false => -1
  | true, true, false, true => -1
  | true, false, true, true => -1
  | _, _, _, _ => 0

/-- Whether the direction in force is reversed; normal while no settings are held (R42, log 17). -/
def directionReversed (s : State) : Bool :=
  match s.store.settings with
  | some t => t.reversed
  | none => false

/-- The illegal-step list with a time appended, the oldest removed beyond 16 (R43). -/
def listStep (now : Time) (l : List Time) : List Time :=
  let l' := l ++ [now]
  l'.drop (l'.length - Config.illegalSteps)

/-- Whether the list holds 16 times, the newest less than 1 ms after the oldest (R43). -/
def faultList (now : Time) (l : List Time) : Bool :=
  match l with
  | [] => false
  | oldest :: _ => l.length == Config.illegalSteps && decide (unitsSince now oldest < Config.faultWindow)

/-! ### Source selection (Section 3.7) -/

/-- The FRESH entry with the fewest hops used, the lowest station number among equals, from the stations of `l`, which are in
rising order. -/
def fewestHops (t : Vector BeaconEntry 16) : List Station → Option Station
  | [] => none
  | n :: ns =>
    match fewestHops t ns with
    | none => if t[n].condition = .fresh then some n else none
    | some m =>
      if t[n].condition = .fresh ∧ t[n].hopsUsed.toNat ≤ t[m].hopsUsed.toNat then some n else some m

/-- The best FRESH entry of the table. -/
def bestFresh (t : Vector BeaconEntry 16) : Option Station := fewestHops t (List.finRange 16)

/-- The best FRESH entry other than `n` (R58). -/
def bestFreshBut (t : Vector BeaconEntry 16) (n : Station) : Option Station :=
  fewestHops t ((List.finRange 16).filter (fun m => m != n))

/-- SOURCE_CHANGE is raised (R61): counted, and pending for every camera (R91). -/
def raiseSourceChange (s : State) : State :=
  { s with strip := { s.strip with sourceSwitches := satInc s.strip.sourceSwitches },
           cams := each (fun c => { c with trig := { c.trig with sourceChange := true } }) s.cams }

/-- The position source becomes `p`; SOURCE_CHANGE is raised when it was another source and not none (R61). -/
def setSource (p : PositionSource) (s : State) : State :=
  let old := s.strip.source
  let s1 := onStrip (fun u => { u with source := p }) s
  if old = .none ∨ old = p then s1 else raiseSourceChange s1

/-- The clock enters FOLLOWING the entry `n`, and Vs becomes its speed (R49, R57). -/
def follow (n : Station) (s : State) : State :=
  setSource (.station n)
    (onStrip (fun u => { u with clock := .following, followed := some n, vs := u.table[n].speed }) s)

/-- Each enabled camera's fallback mark becomes its last trigger time, when the clock enters HELD or NONE while the generator
runs (R93). -/
def markFallback (s : State) : State :=
  if s.ctl.state.runs then
    { s with cams := #v[mark 0, mark 1, mark 2, mark 3] }
  else s
where
  /-- Camera `i` with its fallback mark set, if it is enabled. -/
  mark (i : Cam) : Camera :=
    let c := s.cams[i]
    if s.camEnabled i then { c with trig := { c.trig with fallbackMark := c.trig.lastTrigger } } else c

/-- The clock enters HELD with no followed source (R59, R62). -/
def enterHeld (s : State) : State := markFallback (onStrip (fun u => { u with clock := .held, followed := none }) s)

/-- The encoder of an encoder station has entered FAULT (R62): in LOCAL, the clock follows the best FRESH entry or is held,
the window advance becomes 0, and beaconing stops. -/
def encoderFault (s : State) : State :=
  if s.strip.clock = .loc then
    let s1 := onStrip (fun u => { u with windowAdvance := 0 }) s
    recheckBeacon
      (match bestFresh s.strip.table with
        | some n => follow n s1
        | none => enterHeld s1)
  else s

/-- The pair is sampled (R42, R43). -/
def samplePair (a b : Bool) (s : State) : State :=
  let u := s.strip
  let held := { u with heldA := a, heldB := b }
  if a != u.heldA && b != u.heldB then
    match u.encoder with
    | .none => { s with strip := held }
    | .good | .fault =>
      let l := listStep s.time u.illegal
      let u1 := { held with encoderErrors := satInc u.encoderErrors, illegal := l }
      if u.encoder == .good && faultList s.time l then
        encoderFault { s with strip := { u1 with encoder := .fault } }
      else { s with strip := u1 }
  else
    let d := stepSign u.heldA u.heldB a b
    let d' := if directionReversed s then -d else d
    { s with strip := { held with count := u.count + BitVec.ofInt 32 d' } }

/-! ### Scaling and the estimate (R46, R47, R64) -/

/-- The published reference coordinate of an encoder station (R47). -/
def published (t : Settings) (u : StripUnit) : Coord := coordOf (u.x.toNat + t.encoderOffset)

/-- The scaling of one coordinate update (R46). -/
def scale (t : Settings) (u : StripUnit) : StripUnit :=
  let d := (u.count - u.lastCount).toInt
  let total := d * t.num + u.residue.toNat
  let adv := floorDiv total t.den
  let sum := u.x.toNat + adv
  let x' := coordOf sum
  { u with lastCount := u.count, x := x',
           residue := if sum < 0 then 0 else BitVec.ofInt 16 (total - adv * t.den),
           underrunClamps := if sum < 0 then satInc u.underrunClamps else u.underrunClamps,
           windowAdvance := u.windowAdvance + (x'.toNat - u.x.toNat : Int) }

/-- The estimate extrapolated from an entry over its age (R64). -/
def extrapolate (now : Time) (e : BeaconEntry) : Coord :=
  let age : Nat := min Config.removalTime ((e.age.toNat + (now - e.receipt).toNat) % 4294967296)
  coordOf (e.coord.toNat + floorDiv (e.speed.toInt * age) 163840)

/-- The strip position unit's part of a coordinate update (R46, R47, R64). -/
def stripUpdate (s : State) : State :=
  let u := match s.strip.encoder, s.store.settings with
    | .good, some t => scale t s.strip
    | _, _ => s.strip
  let xhat := match u.clock with
    | .loc => match s.store.settings with
      | some t => published t u
      | none => u.xhat
    | .following | .coasting => match u.followed with
      | some n => extrapolate s.time u.table[n]
      | none => u.xhat
    | .none | .held => u.xhat
  { s with strip := { u with xhat := xhat } }

/-! ### The beacon table (R53, R54) -/

/-- Whether an offered sequence is accepted into an entry (R53). -/
def acceptsBeacon (e : BeaconEntry) (seq : Word16) : Bool := e.condition == .empty || newer seq e.sequence

/-- The entry that an accepted offer writes (R54); the offer's age includes the inbound link delay. -/
def beaconEntryOf (now : Time) (p : List Byte) : BeaconEntry :=
  { condition := .fresh, coord := beaconCoord p, speed := beaconSpeed p, age := ageField p, receipt := now,
    hopsUsed := BitVec.ofNat 4 (15 - hopsField p), sequence := beaconSeq p }

/-- What the strip clock does at an entry write (R54, R57, R58). -/
def afterEntryWrite (n : Station) (s : State) : State :=
  match s.strip.clock with
  | .loc => s
  | .none | .coasting | .held => follow n s
  | .following =>
    if s.strip.followed = some n then onStrip (fun u => { u with vs := u.table[n].speed }) s else s

/-- A BEACON offered to the strip position unit (R53, R54). -/
def beaconOffer (p : List Byte) (s : State) : State :=
  let n := sourceField p
  if s.ctl.state.runs && n != s.ctl.number && acceptsBeacon s.strip.table[n] (beaconSeq p) then
    afterEntryWrite n (onStrip (fun u => { u with table := put u.table n (beaconEntryOf s.time p) }) s)
  else s

/-! ### Meanings -/

/-- ENCODER_SAMPLE (R42, R43, R62). -/
def execEncoderSample (a b : Bool) (s : State) : Host.Outcome State Fault Refusal := .next (samplePair a b s)

/-- INDEX_PULSE (R66): counted while the encoder is GOOD or FAULT. -/
def execIndexPulse (s : State) : Host.Outcome State Fault Refusal :=
  .next <|
    match s.strip.encoder with
    | .none => s
    | .good | .fault => onStrip (fun u => { u with indexPulses := satInc u.indexPulses }) s

/-- Whether the clean expiry has fallen (R44). -/
def cleanDue (s : State) : Bool :=
  match s.strip.encoder, s.strip.illegal.getLast? with
  | .fault, some t => reached s.time t Config.cleanTime
  | _, _ => false

/-- The encoder returns to GOOD (R63): X is re-based onto the estimate, and the clock enters LOCAL. -/
def returnToGood (t : Settings) (s : State) : State :=
  let u := s.strip
  let u1 : StripUnit :=
    { u with encoder := .good, illegal := [], x := coordOf (u.xhat.toNat - t.encoderOffset), residue := 0, lastCount := u.count,
             windowAdvance := 0, clock := .loc, followed := none }
  recheckBeacon (setSource .loc { s with strip := { u1 with xhat := published t u1 } })

/-- CLEAN_EXPIRY (R44, R63): an encoder in FAULT with no illegal step for 10 ms returns to GOOD. -/
def execCleanExpiry (s : State) : Host.Outcome State Fault Refusal :=
  .next <|
    if cleanDue s then
      match s.store.settings with
      | some t => returnToGood t s
      | none => s
    else s

/-- SPEED_WINDOW_EXPIRY (R48): with the window over, Vs is smoothed in LOCAL and the window advance becomes 0. -/
def execSpeedWindowExpiry (s : State) : Host.Outcome State Fault Refusal :=
  .next <|
    if reached s.time s.strip.windowTimer Config.speedWindow then
      onStrip
        (fun u =>
          let w := u.windowAdvance * 256
          { u with windowTimer := nextPeriod u.windowTimer Config.speedWindow, windowAdvance := 0,
                   vs := if u.clock = .loc then speedOf (u.vs.toInt + floorDiv (w - u.vs.toInt) 4) else u.vs }) s
    else s

/-- Whether the stale expiry of entry `n` has fallen (R55). -/
def staleDue (s : State) (n : Station) : Bool :=
  s.strip.table[n].condition == .fresh && reached s.time s.strip.table[n].receipt Config.staleTime

/-- The followed entry `n` has gone STALE in FOLLOWING (R58): the best other FRESH entry is followed, or the clock coasts. -/
def followedStale (n : Station) (s : State) : State :=
  match bestFreshBut s.strip.table n with
  | some m => follow m s
  | none => onStrip (fun u => { u with clock := .coasting }) s

/-- STALE_EXPIRY (R55, R58). -/
def execStaleExpiry (n : Station) (s : State) : Host.Outcome State Fault Refusal :=
  .next <|
    if staleDue s n then
      let s1 := onStrip (fun u => { u with table := change u.table n (fun e => { e with condition := .stale }) }) s
      if s.strip.clock = .following ∧ s.strip.followed = some n then followedStale n s1 else s1
    else s

/-- Whether the removal expiry of entry `n` has fallen (R55); the stale expiry falls first. -/
def removalDue (s : State) (n : Station) : Bool :=
  s.strip.table[n].condition == .stale && reached s.time s.strip.table[n].receipt Config.removalTime

/-- REMOVAL_EXPIRY (R55, R59). -/
def execRemovalExpiry (n : Station) (s : State) : Host.Outcome State Fault Refusal :=
  .next <|
    if removalDue s n then
      let s1 := onStrip (fun u => { u with table := put u.table n BeaconEntry.blank }) s
      if s.strip.clock = .coasting ∧ s.strip.followed = some n then enterHeld s1 else s1
    else s

/-- The end of the listening period (R65): X is set from the best FRESH entry or to 0, and alignment is complete. -/
def endAlignment (t : Settings) (s : State) : State :=
  let u := s.strip
  let x := match bestFresh u.table with
    | some n => coordOf ((extrapolate s.time u.table[n]).toNat - t.encoderOffset)
    | none => 0
  let u1 : StripUnit := { u with x := x, residue := 0, lastCount := u.count, alignStart := none, aligned := true }
  recheckBeacon { s with strip := { u1 with xhat := if u.clock = .loc then published t u1 else u.xhat } }

/-- ALIGNMENT_END (R65): with 5 ms of listening over. -/
def execAlignmentEnd (s : State) : Host.Outcome State Fault Refusal :=
  .next <|
    if timerDue s.time s.strip.alignStart Config.listenTime then
      match s.store.settings with
      | some t => endAlignment t s
      | none => s
    else s

end Sys2Proof.Machine
end

