-- ==== Sys2Proof/Machine/TakeOff.lean ====
section
/-! DEFINITION. The take-off unit (Section 9) and the delivery port (Section 10). -/
namespace Sys2Proof.Machine

/-- The state with the take-off unit changed. -/
def onTake (f : TakeOffUnit → TakeOffUnit) (s : State) : State := { s with take := f s.take }

/-! ### Filters and consistency (R146, R147) -/

/-- The stream id of a segment whose camera field lies in 0 to 3 (Section 9.1). -/
def streamOf (g : Segment) : BitVec 6 := BitVec.ofNat 6 (g.source.val * 4 + g.camera)

/-- Whether a filter matches a stream (R146). -/
def Filter.matches (f : Filter) (stream : BitVec 6) : Bool := f.enabled && (stream ^^^ f.value) &&& f.mask == 0

/-- The lowest-numbered matching filter (R146). -/
def filterHit (t : Settings) (stream : BitVec 6) : Option (Fin 8) :=
  (List.finRange 8).find? (fun i => t.filters[i].matches stream)

/-- The consistency tests (R147). -/
def consistent (g : Segment) : Bool :=
  decide (g.camera ≤ 3 ∧ 1 ≤ g.count ∧ g.count ≤ 16 ∧ g.index < g.count ∧ (g.depth = 8 ∨ g.depth = 16)
    ∧ g.payload.length = (if g.depth = 16 then 2 * g.pixels else g.pixels)
    ∧ (g.index + 1 < g.count → g.payload.length = Config.blockBytes))

/-! ### Records and the delivery queue (R154 to R158) -/

/-- The delivery record formed from a context now (R156). -/
def recordOf (now : Time) (broken : Bool) (a : Assembly) : DeliveryRecord :=
  { stream := a.stream, hit := a.hit, flags := a.flags ||| flagIf broken flagBroken, present := a.next, segCount := a.segCount,
    serial := a.serial, coil := a.coil, nominal := a.nominal, depth := a.depth, pixels := a.pixels, clips := a.clips,
    thinnedSince := a.thinnedSince, completed := now, blocks := a.blocks }

/-- A record joins the delivery queue, or is discarded at a full queue with its blocks freed (R157). -/
def appendRecord (r : DeliveryRecord) (u : TakeOffUnit) : TakeOffUnit :=
  if u.queue.length < Config.deliveryRecords then { u with queue := u.queue ++ [r] }
  else { u with free := u.free ++ r.blocks, deliveryOverflow := satInc u.deliveryOverflow }

/-- Context `k`, which held `a`, is broken (R154) and becomes FREE. -/
def breakContext (now : Time) (deliver : Bool) (k : Fin 32) (a : Assembly) (u : TakeOffUnit) : TakeOffUnit :=
  let u1 := { u with brokenLines := satInc u.brokenLines, contexts := put u.contexts k none }
  if deliver && decide (1 ≤ a.next) then appendRecord (recordOf now true a) u1
  else { u1 with free := u1.free ++ a.blocks }

/-- The head record leaves the queue, its blocks freed in order (R158). -/
def releaseHead (u : TakeOffUnit) : TakeOffUnit :=
  match u.queue with
  | [] => u
  | r :: rest => { u with queue := rest, free := u.free ++ r.blocks }

/-! ### Segments (R148 to R152) -/

/-- The ASSEMBLING context of a stream, the lowest-numbered if there were several. -/
def contextOf (u : TakeOffUnit) (stream : BitVec 6) : Option (Fin 32 × Assembly) :=
  (List.finRange 32).findSome? (fun k =>
    match u.contexts[k] with
    | some a => if a.stream = stream then some (k, a) else none
    | none => none)

/-- The lowest-numbered FREE context. -/
def freeContext (u : TakeOffUnit) : Option (Fin 32) := (List.finRange 32).find? (fun k => u.contexts[k].isNone)

/-- The segment is placed in context `k`, which holds `a` (R149). -/
def placeSegment (now : Time) (deliver : Bool) (g : Segment) (k : Fin 32) (a : Assembly) (u : TakeOffUnit) : TakeOffUnit :=
  match u.free with
  | [] => breakContext now deliver k a { u with storeFull := satInc u.storeFull }
  | b :: rest =>
    let a1 := { a with blocks := a.blocks ++ [b], next := a.next + 1, pixels := a.pixels + g.pixels, lastArrival := now }
    let u1 := { u with free := rest, store := u.store.write (blockAddress b 0) g.payload }
    if a1.next = a1.segCount then
      appendRecord (recordOf now false a1)
        { u1 with contexts := put u1.contexts k none, linesTaken := satInc u1.linesTaken }
    else { u1 with contexts := put u1.contexts k (some a1) }

/-- The line that segment 0 begins (R148). -/
def openedBy (now : Time) (hit : Fin 8) (g : Segment) : Assembly :=
  { stream := streamOf g, serial := g.serial, segCount := g.count, next := 0, coil := g.coil, nominal := g.nominal,
    flags := g.flags, clips := g.clips, thinnedSince := g.thinnedSince, depth := g.depth, pixels := 0, hit := hit, blocks := [],
    lastArrival := now }

/-- A consistent segment of a stream with no ASSEMBLING context (R148, R152); `mayOpen` is false in DUPLICATE. -/
def withoutContext (now : Time) (deliver mayOpen : Bool) (hit : Fin 8) (g : Segment) (u : TakeOffUnit) : TakeOffUnit :=
  if g.index = 0 then
    match mayOpen, freeContext u with
    | true, some k => placeSegment now deliver g k (openedBy now hit g) u
    | _, _ => { u with noContext := satInc u.noContext }
  else { u with orphanSegments := satInc u.orphanSegments }

/-- A consistent matched segment (Table 9.3). -/
def takeSegment (now : Time) (deliver mayOpen : Bool) (hit : Fin 8) (g : Segment) (u : TakeOffUnit) : TakeOffUnit :=
  match contextOf u (streamOf g) with
  | some (k, a) =>
    if a.serial = g.serial then
      if g.index = a.next then placeSegment now deliver g k a u
      else breakContext now deliver k a u
    else withoutContext now deliver mayOpen hit g (breakContext now deliver k a u)
  | none => withoutContext now deliver mayOpen hit g u

/-- A matched segment, or one with no stream id, after the filters (R147). -/
def testSegment (now : Time) (deliver mayOpen : Bool) (hit : Fin 8) (g : Segment) (u : TakeOffUnit) : TakeOffUnit :=
  if consistent g then takeSegment now deliver mayOpen hit g u else { u with orphanSegments := satInc u.orphanSegments }

/-- A LINE offered to the take-off unit (R146). -/
def lineOffer (p : List Byte) (s : State) : State :=
  match s.store.settings with
  | none => s
  | some t =>
    if s.ctl.state.runs && t.takeOff then
      let g := segmentOf p
      let mayOpen := s.ctl.state != .duplicate
      if 3 < g.camera then onTake (fun u => { u with orphanSegments := satInc u.orphanSegments }) s
      else
        match filterHit t (streamOf g) with
        | some hit => onTake (testSegment s.time t.deliverBroken mayOpen hit g) s
        | none => s
    else s

/-! ### Meanings of the take-off unit -/

/-- Whether the assembly timeout of context `k` has expired (R153). -/
def assemblyDue (s : State) (k : Fin 32) : Bool :=
  match s.take.contexts[k] with
  | some a => s.ctl.state.runs && s.takeOffEnabled && reached s.time a.lastArrival Config.assemblyTime
  | none => false

/-- ASSEMBLY_TIMEOUT (R153, R154): the context is broken. -/
def execAssemblyTimeout (k : Fin 32) (s : State) : Host.Outcome State Fault Refusal :=
  .next <|
    if assemblyDue s k then
      match s.take.contexts[k], s.store.settings with
      | some a, some t => onTake (breakContext s.time t.deliverBroken k a) s
      | _, _ => s
    else s

/-! ### The delivery port (R163 to R168) -/

/-- The head record is released and the word position becomes 0 (R166). -/
def release (s : State) : State := { s with take := releaseHead s.take, dlv := { s.dlv with position := 0 } }

/-- DLV_TAKE (R165, R166): with DLV_RDY high the word at the position is taken; with it low the take is ignored and counted.
An inactive port takes no request (R163). -/
def execDlvTake (s : State) : Host.Outcome State Fault Refusal :=
  .next <|
    if s.dlv.active then
      if dlvReady s then
        if dlvLast s then release s else { s with dlv := { s.dlv with position := s.dlv.position + 1 } }
      else { s with dlv := { s.dlv with takesIgnored := satInc s.dlv.takesIgnored } }
    else s

/-- DLV_CUT (R167): the head record is cut and counted; with the queue empty the cut is ignored. -/
def execDlvCut (s : State) : Host.Outcome State Fault Refusal :=
  .next <|
    if s.dlv.active && !s.take.queue.isEmpty then
      release { s with dlv := { s.dlv with recordsCut := satInc s.dlv.recordsCut } }
    else s

/-- DLV_HOLD (R168): the level changes; the position, the head record and the queue stay. An inactive port reads the level
afresh when it becomes active (R163). -/
def execDlvHold (level : Bool) (s : State) : Host.Outcome State Fault Refusal :=
  .next { s with dlv := { s.dlv with holdPin := level } }

end Sys2Proof.Machine
end

