-- ==== Sys2Proof/Machine/Arrival.lean ====
section
/-! DEFINITION. The inbound side of the ring port (Sections 1.1 to 1.4): the link, the framing of parcels, and arrival
processing. -/
namespace Sys2Proof.Machine

/-- The state with the ring port changed. -/
def onRing (f : RingPort → RingPort) (s : State) : State := { s with ring := f s.ring }

/-! ### The link (R1) -/

/-- The link enters UP, and station control takes the change (R1, R25). -/
def enterUp (s : State) : State := linkUp (onRing (fun r => { r with link := .up, idleRun := Config.idlesToUp }) s)

/-- One valid idle character in SYNCING (R1). -/
def idleCharacter (s : State) : State :=
  if s.ring.idleRun + 1 < Config.idlesToUp then onRing (fun r => { r with idleRun := r.idleRun + 1 }) s else enterUp s

/-- The link enters DARK: a parcel open in the receiver is discarded and counted in PARTIAL_DROPS (R3), and the change is
reported to station control (R25). `opened` is a parcel opened in UP since the last event. R1 gives the idle run count no value in DARK;
that it stands is the model's DESIGN CHOICE (log 15). -/
def enterDark (opened : OpenParcel) (s : State) : State :=
  if s.ring.link = .dark then s
  else
    let isOpen := s.ring.link == .up && (s.ring.reception.isSome || opened.isSome)
    linkDark
      (onRing
        (fun r =>
          { r with link := .dark, reception := none,
                   partialDrops := if isOpen then satInc r.partialDrops else r.partialDrops }) s)

/-! ### Framing (R2, R3) -/

/-- One data character of an open parcel (R2): stored up to the 2,080th, and always counted. -/
def receiveData (r : Reception) (b : Byte) : Reception :=
  { bytes := if r.count < Config.maxParcel then r.bytes ++ [b] else r.bytes, count := r.count + 1 }

/-- The reception record just after a start delimiter. -/
def Reception.opened : Reception := { bytes := [], count := 0 }

/-- The record after these data characters: they continue the parcel open in the record, or follow a start delimiter. -/
def receiveRun (r : Option Reception) (chars : List Byte) : Reception := chars.foldl receiveData (r.getD .opened)

/-! ### Arrival processing (R4 to R11) -/

/-- Whether a sound parcel of a known kind is an own parcel (R6). -/
def isOwn (s : State) (p : List Byte) : Bool :=
  sourceField p == s.ctl.number
    && match s.ctl.identity with
      | some id => keyField p == id.setWidth 16
      | none => false

/-- A returning own parcel is offered to its consumer and stripped (R7). -/
def ownReturn (k : Kind) (p : List Byte) (s : State) : State :=
  match k with
  | .line => lineOffer p s
  | .status => ownStatusReturn p s
  | .signon => ownSignonReturn s
  | .beacon | .mark | .ease => s

/-- A peer parcel is offered to the consumer of its kind (R9, Table 1.6); a BEACON with its age increased by the inbound link
delay, to both its readers. -/
def offerPeer (k : Kind) (p : List Byte) (s : State) : State :=
  match k with
  | .line => lineOffer p s
  | .beacon =>
    let aged := addAge p s.ring.linkDelay.toNat
    latestSeamOffer aged (beaconOffer aged s)
  | .mark => markOffer p s
  | .ease => easeOffer p s
  | .status => peerStatus p s
  | .signon => peerSignon p s

/-- A peer parcel prepared for forwarding (R10). -/
def prepared (delay : Word16) (k : Kind) (p : List Byte) : List Byte :=
  if k = .beacon then addAge (lessOneHop p) delay.toNat else lessOneHop p

/-- A prepared parcel joins the transit buffer, or is discarded and counted when it does not fit (R11). -/
def forward (content : List Byte) (s : State) : State :=
  let e : TransitEntry := { content := content, arrival := s.time }
  if transitOccupancy s.ring.transit + e.size ≤ Config.transitCapacity then
    freeWhileIdle (onRing (fun r => { r with transit := r.transit ++ [e] }) s)
  else onRing (fun r => { r with transitOverruns := satInc r.transitOverruns }) s

/-- A sound parcel of known kind `k` with header and body `p` (R6 to R11). -/
def processKnown (k : Kind) (p : List Byte) (s : State) : State :=
  if isOwn s p then ownReturn k p s
  else if hopsField p = 0 then onRing (fun r => { r with orphans := satInc r.orphans }) s
  else forward (prepared s.ring.linkDelay k p) (offerPeer k p s)

/-- Arrival processing (R4 to R11) of the parcel held in the reception record. -/
def processArrival (r : Reception) (s : State) : State :=
  if sound r then
    match kindField r.bytes with
    | some k =>
      if k.sizeOk r.count then processKnown k (r.bytes.take (r.count - crcBytes)) s
      else onRing (fun r => { r with unknownKinds := satInc r.unknownKinds }) s
    | none => onRing (fun r => { r with unknownKinds := satInc r.unknownKinds }) s
  else onRing (fun r => { r with crcFaults := satInc r.crcFaults }) s

/-! ### Meanings -/

/-- LIGHT_AND_LOCK (R1): light and lock are present; a DARK link enters SYNCING with its idle run count at 0. Entry into
SYNCING has no effect on station control (R25). -/
def execLightAndLock (s : State) : Host.Outcome State Fault Refusal :=
  .next <|
    onRing
      (fun r => if r.link = .dark then { r with lightAndLock := true, link := .syncing, idleRun := 0 }
                else { r with lightAndLock := true }) s

/-- LOSS_OF_LIGHT_OR_LOCK (R1, R3, R25): the link enters DARK. -/
def execLossOfLightOrLock (opened : OpenParcel) (s : State) : Host.Outcome State Fault Refusal :=
  .next <| enterDark opened (onRing (fun r => { r with lightAndLock := false }) s)

/-- INBOUND_UP (R1): the 64th consecutive valid idle character in SYNCING; the link enters UP. With fewer than 63 before it
the character is not the 64th (log 15). -/
def execInboundUp (s : State) : Host.Outcome State Fault Refusal :=
  .next <| if s.ring.link = .syncing ∧ s.ring.idleRun + 1 = Config.idlesToUp then enterUp s else s

/-- SYNCING_CHARACTER (R1): in SYNCING an idle character adds 1 to the idle run count, and at 64 the link enters UP; a
character of any other class sets the count back to 0. -/
def execSyncingCharacter (c : CharClass) (s : State) : Host.Outcome State Fault Refusal :=
  .next <|
    if s.ring.link = .syncing then
      match c with
      | .idle => idleCharacter s
      | .startDelimiter | .endDelimiter | .data | .invalid => onRing (fun r => { r with idleRun := 0 }) s
    else s

/-- PARTIAL_DROP (R3): in UP the open parcel is discarded and counted; a start delimiter opens the next parcel. -/
def execPartialDrop (_chars : List Byte) (cause : DropCause) (s : State) : Host.Outcome State Fault Refusal :=
  .next <|
    if s.ring.link = .up then
      onRing
        (fun r =>
          { r with partialDrops := satInc r.partialDrops,
                   reception := match cause with
                     | .startDelimiter => some .opened
                     | .idle | .invalid => none }) s
    else s

/-- PARCEL_ARRIVAL (R2): in UP the end delimiter closes the parcel, the reception record is emptied, and arrival processing
runs at the present station time. -/
def execParcelArrival (chars : List Byte) (s : State) : Host.Outcome State Fault Refusal :=
  .next <|
    if s.ring.link = .up then
      processArrival (receiveRun s.ring.reception chars) (onRing (fun r => { r with reception := none }) s)
    else s

end Sys2Proof.Machine
end

