-- ==== Sys2Proof/Machine/Segmenting.lean ====
section
/-! DEFINITION. The segmenter's admission of line records (Sections 7.2 to 7.4). -/
namespace Sys2Proof.Machine

/-- A line record (Table 6.5) as its port hands it over, but for the camera. -/
structure LineRecord where
  serial : Word32
  tags : Tags
  deep : Bool
  pixels : List Nat
  clips : Nat
deriving DecidableEq, Repr

/-- The number of segments of a payload of `b` bytes: ceil (b ÷ 2,048) (R118). -/
def segmentCount (b : Nat) : Nat := (b + (Config.blockBytes - 1)) / Config.blockBytes

/-- The payload bytes of a line (R118). -/
def payloadBytes (r : LineRecord) : Nat := if r.deep then 2 * r.pixels.length else r.pixels.length

/-- The parcel bytes of a line (R118). -/
def parcelBytes (r : LineRecord) : Nat := payloadBytes r + 32 * segmentCount (payloadBytes r)

/-- Segment `k` of a line (R118, R127). -/
def segmentParcel (h : OwnHeader) (i : Cam) (thinned : BitVec 8) (r : LineRecord) (count k : Nat) (bytes : List Byte) :
    LineParcel :=
  { header := h, camera := i, serial := r.serial, segIndex := k, segCount := count, coil := r.tags.coil,
    nominal := r.tags.nominal, flags := r.tags.flags, depth := if r.deep then 16 else 8,
    segPixels := if r.deep then bytes.length / 2 else bytes.length, clips := BitVec.ofNat 16 r.clips, thinnedSince := thinned,
    payload := bytes }

/-- The line cut into its segments, in segment order (R118). -/
def cutLine (h : OwnHeader) (i : Cam) (thinned : BitVec 8) (r : LineRecord) : List LineParcel :=
  let bytes := payloadOf r.deep r.pixels
  let n := segmentCount (payloadBytes r)
  (List.range n).map (fun k =>
    segmentParcel h i thinned r n k ((bytes.drop (k * Config.blockBytes)).take Config.blockBytes))

/-- The thin factor in force for camera `i` (R117). -/
def thinOf (s : State) (i : Cam) : Nat :=
  match s.camSettings i with
  | some t => t.thin
  | none => 1

/-- The thin phase after the thin test (R121). -/
def phaseAfter (occupancy k phase : Nat) : Nat :=
  if occupancy < Config.thinMark then 0 else if 1 < k then (phase + 1) % k else phase

/-- Whether the thin test leaves the line out (R121). -/
def thinnedOut (occupancy k phase : Nat) : Bool := decide (Config.thinMark ≤ occupancy ∧ 1 < k ∧ phase ≠ 0)

/-- The line is appended whole (R122), which is an outbound-free event while the port is IDLE (R119). -/
def admitLine (i : Cam) (r : LineRecord) (s : State) : State :=
  let parcels := cutLine s.ownHeader i s.cams[i].adm.thinnedSince r
  freeWhileIdle
    (s.onAdm i (fun a => { a with admitted := satInc a.admitted, thinnedSince := 0 })
      |> fun t => { t with seg := { t.seg with lines := t.seg.lines ++ parcels } })

/-- A line record presented to the segmenter (R120 to R122). -/
def present (i : Cam) (r : LineRecord) (s : State) : State :=
  let occupancy := lineOccupancy s.seg.lines
  let k := thinOf s i
  let phase := s.cams[i].adm.phase
  if !s.ctl.state.admits then s.onAdm i (fun a => { a with refused := satInc a.refused })
  else
    let s1 := s.onAdm i (fun a => { a with phase := phaseAfter occupancy k phase })
    if thinnedOut occupancy k phase then
      s1.onAdm i (fun a => { a with thinned := satInc a.thinned, thinnedSince := satInc a.thinnedSince })
    else if occupancy + parcelBytes r ≤ Config.lineCapacity then admitLine i r s1
    else s1.onAdm i (fun a => { a with refused := satInc a.refused })

/-- A record with these tags and pixels is made by port `i` (R114): it takes the line serial, counts in LINES_PRODUCED and is
presented to the segmenter at the same event. -/
def makeRecord (i : Cam) (tags : Tags) (deep : Bool) (pixels : List Nat) (clips : Nat) (s : State) : State :=
  let r : LineRecord := { serial := s.cams[i].port.serial, tags := tags, deep := deep, pixels := pixels, clips := clips }
  present i r (s.onPort i (fun p => { p with serial := p.serial + 1, produced := satInc p.produced }))

end Sys2Proof.Machine
end

