-- ==== Sys2Proof/Machine/CameraPort.lean ====
section
/-! DEFINITION. Camera ports and line conditioning (Section 6), with the pairing of completed lines (R94, R96). -/
namespace Sys2Proof.Machine

/-! ### Pixels of the line in reception (R102, R109, R112, R113) -/

/-- The fill pattern value at output position `n` (R110). -/
def fillValue (c : CameraSettings) (n : Nat) : Nat :=
  match c.fill with
  | .black => c.blackValue
  | .flat => if c.deep then 2048 else 128
  | .ramp => if c.deep then n % 4096 else n % 256

/-- Fill pattern values for output positions `a` to `a + n - 1`. -/
def fillRun (c : CameraSettings) (a n : Nat) : List Nat := (List.range n).map (fun j => fillValue c (a + j))

/-- The length cap in force: the locked length of a LOCKED port (R109); in other states nothing is conditioned (R102). -/
def conditionCap (p : CameraPort) : Option Nat :=
  match p.state with
  | .locked => p.locked
  | .off | .dark | .sizing | .mismatch => none

/-- One pixel delivered (R102): its index is the count before it; in the window and below the cap it is conditioned, and
clip-counted when the clamp changed it. The count saturates at 65,535, and pixels after that are not used. -/
def deliverPixel (c : CameraSettings) (cap : Option Nat) (l : LineRx) (raw : BitVec 12) : LineRx :=
  if l.count = 65535 then l
  else
    let p := raw.toNat % 2 ^ c.inputDepth
    match cap with
    | none => { l with count := l.count + 1 }
    | some len =>
      if c.windowStart ≤ l.count ∧ l.count < windowEnd c len then
        { count := l.count + 1, pixels := l.pixels ++ [conditioned c p],
          clips := if clipped c p then min (l.clips + 1) 65535 else l.clips }
      else { l with count := l.count + 1 }

/-- A line of no pixels yet, at its rising edge (R102). -/
def LineRx.begin : LineRx := { count := 0, pixels := [], clips := 0 }

/-! ### Records (R108 to R111) -/

/-- A substitute line of Nnom fill pattern pixels with SUBSTITUTED (R111). -/
def substituteLine (i : Cam) (c : CameraSettings) (t : Tags) (s : State) : State :=
  makeRecord i { t with flags := t.flags ||| flagSubstituted } c.deep (fillRun c 0 c.nominalCount) 0 s

/-- The flags that a LOCKED port adds to a line of length `len` (R109, R113). -/
def lockedFlags (c : CameraSettings) (len locked clips : Nat) : Word16 :=
  flagIf (decide (len < locked)) flagShort ||| flagIf (decide (locked < len)) flagLong
    ||| flagIf (decide (c.peak < clips)) flagPeak

/-- A conditioned line of a port locked at `locked`, its fill positions at the end (R109). -/
def conditionedLine (i : Cam) (c : CameraSettings) (locked : Nat) (t : Tags) (l : LineRx) (s : State) : State :=
  makeRecord i { t with flags := t.flags ||| lockedFlags c l.count locked l.clips } c.deep
    (l.pixels ++ fillRun c l.pixels.length (outputCount c locked - l.pixels.length)) l.clips s

/-- The record of a line that has tags, by the port state at the completion (R108). -/
def recordLine (i : Cam) (c : CameraSettings) (t : Tags) (l : LineRx) (s : State) : State :=
  match s.cams[i].port.state, s.cams[i].port.locked with
  | .locked, some len => conditionedLine i c len t l s
  | .sizing, _ => substituteLine i c t s
  | .mismatch, _ => substituteLine i c t s
  | _, _ => s

/-! ### Tags (R94, R96) -/

/-- The free-run tag of a FREE camera (R91, R94). -/
def freeTag (s : State) (i : Cam) : Tags :=
  let t := s.cams[i].trig
  { coil := t.coil, nominal := t.current, flags := flagUntriggered ||| positionFlags s.strip.clock t.sourceChange }

/-- The completed line takes its tags and makes its record, or is discarded as unsolicited (R94, R96, R108). -/
def tagLine (i : Cam) (c : CameraSettings) (l : LineRx) (s : State) : State :=
  if c.free then recordLine i c (freeTag s i) l (s.onTrig i (fun t => { t with sourceChange := false }))
  else
    match s.cams[i].trig.fifo with
    | [] => s.onTrig i (fun t => { t with unsolicited := satInc t.unsolicited })
    | r :: rest => recordLine i c r.tags l (s.onTrig i (fun t => { t with fifo := rest }))

/-! ### Port state bookkeeping (R105 to R107) -/

/-- Whether a length is acceptable for locking (R105). -/
def lockable (c : CameraSettings) (len : Nat) : Bool :=
  if c.lengthCheck then len == c.nominal else decide (c.windowStart < len ∧ len ≤ Config.maxLockLength)

/-- A completed length applied to the sizing run (R105). A port that enters MISMATCH keeps its last locked length for item 46, and one
that enters LOCKED a mismatched length no longer in force, the model's DESIGN CHOICE (log 35). -/
def applySizing (c : CameraSettings) (len : Nat) (p : CameraPort) : CameraPort :=
  let n := match p.run with
    | some r => if r.length = len then r.count + 1 else 1
    | none => 1
  if n < 4 then { p with run := some { length := len, count := n } }
  else if lockable c len then { p with state := .locked, locked := some len, deviation := 0, run := none }
  else { p with state := .mismatch, mismatched := some len, run := none }

/-- A port returned to SIZING with a line of length `len` as the first of a new run (R106, R107). It keeps its last locked length
for item 46, as R104 says of the dark expiry alone, and its mismatched length, of which no rule speaks outside MISMATCH: the model's
DESIGN CHOICE (log 35). -/
def backToSizing (len : Nat) (p : CameraPort) : CameraPort :=
  { p with state := .sizing, run := some { length := len, count := 1 } }

/-- The bookkeeping after the record, by the port state at the completion (R105 to R107). -/
def bookkeep (c : CameraSettings) (len : Nat) (p : CameraPort) : CameraPort :=
  match p.state with
  | .sizing => applySizing c len p
  | .mismatch => if p.mismatched = some len then p else backToSizing len p
  | .locked =>
    if p.locked = some len then { p with deviation := 0 }
    else if p.deviation + 1 < 8 then { p with deviation := p.deviation + 1 }
    else { backToSizing len p with deviation := 0 }
  | .off | .dark => p

/-! ### Meanings -/

/-- Whether a port in this state receives lines (R102, R103). -/
def PortState.receives : PortState → Bool
  | .sizing | .locked | .mismatch => true
  | .off | .dark => false

/-- A rising edge of line-valid at a port that acts (R102, R104). -/
def riseAt (now : Time) (p : CameraPort) : CameraPort :=
  match p.state with
  | .off => p
  | .dark => { p with state := .sizing, run := none, line := some .begin, darkWatch := some now }
  | .sizing | .locked | .mismatch => { p with line := some .begin, darkWatch := some now }

/-- LINE_VALID_RISE (R102, R104): with line-valid low, it goes high, and a port that acts begins a line. -/
def execLineValidRise (i : Cam) (s : State) : Host.Outcome State Fault Refusal :=
  .next <|
    if s.cams[i].port.lineValid then s
    else
      s.onPort i (fun p =>
        let p1 := { p with lineValid := true }
        if s.ctl.state.runs then riseAt s.time p1 else p1)

/-- The completion of a line in reception (R102, R108): the pixels have been delivered, the record is made, and the port
state bookkeeping follows it. -/
def completeLine (i : Cam) (c : CameraSettings) (l : LineRx) (s : State) : State :=
  let s1 := s.onPort i (fun p => { p with line := none, lastLength := l.count })
  (tagLine i c l s1).onPort i (bookkeep c l.count)

/-- LINE_COMPLETION (R102): with line-valid high, it goes low; a port in SIZING, LOCKED or MISMATCH restarts its dark watch
and completes the line it has in reception, whose pixels the event brings. -/
def execLineCompletion (i : Cam) (pixels : List (BitVec 12)) (s : State) : Host.Outcome State Fault Refusal :=
  .next <|
    let p := s.cams[i].port
    if p.lineValid then
      let s1 := s.onPort i (fun p => { p with lineValid := false })
      if s.ctl.state.runs && p.state.receives then
        let s2 := s1.onPort i (fun p => { p with darkWatch := some s.time })
        match p.line, s.camSettings i with
        | some l, some c => completeLine i c (pixels.foldl (deliverPixel c (conditionCap p)) l) s2
        | _, _ => s2
      else s1
    else s

/-- Whether the dark expiry of port `i` has fallen (R104). -/
def darkDue (s : State) (i : Cam) : Bool :=
  s.ctl.state.runs && s.cams[i].port.state.receives && timerDue s.time s.cams[i].port.darkWatch Config.darkTime

/-- DARK_EXPIRY (R104): the port enters DARK and abandons a line in reception. That its mismatched length stands, of which R104 does
not speak, is the model's DESIGN CHOICE (log 35). -/
def execDarkExpiry (i : Cam) (s : State) : Host.Outcome State Fault Refusal :=
  .next <|
    if darkDue s i then
      s.onPort i (fun p => { p with state := .dark, line := none, run := none, deviation := 0, darkWatch := none })
    else s

end Sys2Proof.Machine
end

