-- ==== Sys2Proof/Machine/Triggering.lean ====
section
/-! DEFINITION. The trigger generator (Section 5) and the coordinate update as all its parties take it (R45, R87). -/
namespace Sys2Proof.Machine

/-! ### Seam passing (R87) -/

/-- Whether camera `i`'s flag is clear in an entry that lies above `o` and at or below `t`. -/
def passable (i : Cam) (o t : Coord) (e : SeamEntry) : Bool :=
  !bit e.passed i.val && decide (o.toNat < e.coord.toNat ∧ e.coord.toNat ≤ t.toNat)

/-- The entry of the highest S among those that `q` admits. -/
def highestSeam (q : SeamEntry → Bool) : List SeamEntry → Option SeamEntry
  | [] => none
  | e :: es =>
    match highestSeam q es with
    | none => if q e then some e else none
    | some m => if q e ∧ m.coord.toNat < e.coord.toNat then some e else some m

/-- An entry with camera `i`'s flag set when its S is at or below `c`. -/
def flagPassed (i : Cam) (c : Coord) (e : SeamEntry) : SeamEntry :=
  if e.coord.toNat ≤ c.toNat then { e with passed := e.passed ||| BitVec.ofNat 4 (2 ^ i.val) } else e

/-- The camera passes the entry `e` (R87): it takes up its coil, its flag is set in that entry and every lower one, and the
entries this completes leave the list (R79). -/
def passSeam (i : Cam) (e : SeamEntry) (s : State) : State :=
  onSeam (fun u => { u with list := (u.list.map (flagPassed i e.coord)).filter (fun x => !retired s x) })
    (s.onTrig i (fun t => { t with coil := e.coil, origin := e.coord, nLast := -1 }))

/-- Seam passing at an update, with the camera's strip coordinate `t` (R87). -/
def passSeams (i : Cam) (t : Coord) (s : State) : State :=
  match highestSeam (passable i s.cams[i].trig.origin t) s.seam.list with
  | some e => passSeam i e s
  | none => s

/-! ### Firing (R89, R90) -/

/-- The trigger is fired (R90), and its record joins the FIFO. -/
def fire (now : Time) (coil : Word16) (nominal : Word32) (flags : Word16) (t : Trigger) : Trigger :=
  { t with pulse := some now, lastTrigger := some now, issued := satInc t.issued, sourceChange := false,
           fifo := t.fifo ++ [{ tags := { coil := coil, nominal := nominal, flags := flags }, fired := now }] }

/-- Whether the last trigger is too recent for a position trigger (R89). -/
def tooSoon (now : Time) (c : CameraSettings) (t : Trigger) : Bool :=
  match t.lastTrigger with
  | some l => decide (unitsSince now l < c.minInterval)
  | none => false

/-- The decision of a position trigger due at index `n` (R89). -/
def decideTrigger (now : Time) (clock : ClockState) (c : CameraSettings) (n : Nat) (t : Trigger) : Trigger :=
  let t1 :=
    if tooSoon now c t then { t with overspeed := satInc t.overspeed }
    else if Config.fifoRecords ≤ t.fifo.length then { t with suppressed := satInc t.suppressed }
    else fire now t.coil (BitVec.ofNat 32 (n * c.pitch)) (positionFlags clock t.sourceChange) t
  { t1 with skipped := satAdd t1.skipped ((n : Int) - t.nLast - 1).toNat, nLast := n }

/-- Whether a camera that follows has its strip coordinate `x` above the top of the coil-relative range in coil 0, with no seam passed
(R92). -/
def beyondFirstCoil (clock : ClockState) (x : Coord) (t : Trigger) : Bool :=
  (clock == .following || clock == .coasting) && t.coil == 0 && t.origin == 0 && decide (4294967295 < x.toNat)

/-- The camera's coordinate and trigger after seam passing, with its strip coordinate `x` (R88). In coil 0 with the coordinate beyond
the top, a camera that follows fires none until its first seam, as R92 says; R88 and R89 alone would make one due at n_last = -1, and
that R92 goes before them there is the model's DEDUCED reading (log 38). -/
def positionTrigger (now : Time) (clock : ClockState) (c : CameraSettings) (x : Coord) (t : Trigger) : Trigger :=
  let t1 := { t with current := coilCoordOf ((x.toNat : Int) - t.origin.toNat) }
  let n := t1.current.toNat / c.pitch
  if !c.free && !beyondFirstCoil clock x t && decide (t.nLast < n) then decideTrigger now clock c n t1 else t1

/-- Whether a fallback trigger is due (R93). -/
def fallbackDue (now : Time) (c : CameraSettings) (t : Trigger) : Bool :=
  match t.fallbackMark with
  | some m => reached now m c.fallback
  | none => true

/-- The fallback of a TRIGGERED camera in HELD or NONE (R93). -/
def fallbackTrigger (now : Time) (clock : ClockState) (c : CameraSettings) (t : Trigger) : Trigger :=
  if !c.free && decide (0 < c.fallback) && fallbackDue now c t then
    let t1 := { t with fallbackMark := some now }
    if Config.fifoRecords ≤ t.fifo.length then { t1 with suppressed := satInc t.suppressed }
    else fire now t.coil t.current (positionFlags clock t.sourceChange) t1
  else t

/-- Camera `i` takes a coordinate update (Table 5.2). -/
def cameraUpdate (i : Cam) (s : State) : State :=
  match s.camSettings i with
  | none => s
  | some c =>
    if s.ctl.state.runs && c.enabled then
      match s.strip.clock with
      | .loc | .following | .coasting =>
        let x := coordOf (s.strip.xhat.toNat - c.offset)
        (passSeams i x s).onTrig i (positionTrigger s.time s.strip.clock c x)
      | .held | .none => s.onTrig i (fallbackTrigger s.time s.strip.clock c)
    else s

/-! ### The coordinate update (R45) -/

/-- The cameras of one slot take the update. -/
def camerasUpdate (o : UpdateOrder) (slot : Fin 3) (s : State) : State :=
  (List.finRange 4).foldl (fun t i => if o.slot i = slot then cameraUpdate i t else t) s

/-- The update as the strip position unit, the seam unit and the cameras take it in the order `o`. -/
def updateInOrder (o : UpdateOrder) (s : State) : State :=
  let s1 := camerasUpdate o 0 s
  let s2 := if o.seamFirst then seamUpdate s1 else stripUpdate s1
  let s3 := camerasUpdate o 1 s2
  let s4 := if o.seamFirst then stripUpdate s3 else seamUpdate s3
  camerasUpdate o 2 s4

/-! ### Meanings -/

/-- COORDINATE_UPDATE (R45): with the period over, the next one begins, and the parties take the update in an order that is
free (log 4). -/
def execCoordinateUpdate (s : State) : Host.Outcome State Fault Refusal :=
  .next <|
    if reached s.time s.strip.updateTimer Config.updatePeriod then
      updateInOrder (Config.updateOrder s.freeCount)
        (onStrip (fun u => { u with updateTimer := nextPeriod u.updateTimer Config.updatePeriod }) s.bump)
    else s

/-- TRIGGER_PULSE_END (R90): 1 µs after firing the output returns low. -/
def execTriggerPulseEnd (i : Cam) (s : State) : Host.Outcome State Fault Refusal :=
  .next <|
    if timerDue s.time s.cams[i].trig.pulse Config.pulseTime then s.onTrig i (fun t => { t with pulse := none }) else s

/-- LAST_TRIGGER_TIME_LAPSE (R90): after 65,535 units the last trigger time becomes none. -/
def execLastTriggerTimeLapse (i : Cam) (s : State) : Host.Outcome State Fault Refusal :=
  .next <|
    if timerDue s.time s.cams[i].trig.lastTrigger Config.triggerLapse then s.onTrig i (fun t => { t with lastTrigger := none })
    else s

/-- Whether the FIFO head of camera `i` has timed out (R97). -/
def timeoutDue (s : State) (i : Cam) : Bool :=
  match s.camSettings i, s.cams[i].trig.fifo with
  | some c, r :: _ => s.ctl.state.runs && c.enabled && !c.free && reached s.time r.fired c.timeout
  | _, _ => false

/-- The FIFO head is removed as missing, and its substitute made if enabled (R97). -/
def dropHead (i : Cam) (c : CameraSettings) (r : TriggerRecord) (s : State) : State :=
  let s1 := s.onTrig i (fun t => { t with fifo := t.fifo.drop 1, missing := satInc t.missing })
  if c.substitute then substituteLine i c r.tags s1 else s1

/-- The records of `l`, the FIFO from its head, removed while they have timed out, oldest first (R97). -/
def dropExpired (i : Cam) (c : CameraSettings) : List TriggerRecord → State → State
  | [], s => s
  | r :: rest, s => if reached s.time r.fired c.timeout then dropExpired i c rest (dropHead i c r s) else s

/-- TRIGGER_TIMEOUT (R97): the head is removed, and with it every record behind it whose time has already been reached. -/
def execTriggerTimeout (i : Cam) (s : State) : Host.Outcome State Fault Refusal :=
  .next <|
    if timeoutDue s i then
      match s.camSettings i with
      | some c => dropExpired i c s.cams[i].trig.fifo s
      | none => s
    else s

end Sys2Proof.Machine
end

