-- ==== Sys2Proof/Machine/Start.lean ====
section
/-! DEFINITION. The two resets and the end of START (Sections 2.2 and 11.3 and the resets section of every block). -/
namespace Sys2Proof.Machine

/-! ### The end of the EEPROM read (R23, R24, R69, R176, R178, R181) -/

/-- The image is whole, the read is over, and station control takes the identity (R22, R176). -/
def finishRead (s : State) : State :=
  { s with store := { s.store with image := s.store.eeprom, imageRead := 128, readStart := none },
           ctl := { s.ctl with identity := some (recordIdentity s.store.eeprom) } }

/-- Each block takes its settings, and the fault flags are set (R178, R181). -/
def takeSettings (s : State) : State :=
  let m := s.store.image
  { s with store := { s.store with settings := some (recordSettings m), faults := recordFaults m },
           ring := { s.ring with linkDelay := recordLinkDelay m } }

/-- The strip position unit at an entry into JOINING (R65, R67, R69). -/
def stripJoining (now : Time) (t : Settings) (u : StripUnit) : StripUnit :=
  if t.encoder then
    let u1 := match u.encoder with
      | .none =>
        { u with encoder := .good, lastCount := u.count, residue := 0, clock := .loc, followed := none, source := .loc }
      | .good | .fault => { u with residue := if u.residue.toNat < t.den then u.residue else 0 }
    { u1 with alignStart := some now, aligned := false }
  else
    let u1 := { u with encoder := .none, illegal := [] }
    if u.clock = .loc then { u1 with clock := .none, followed := none, source := .none } else u1

/-- Camera `i` at an entry into JOINING (R86, R93, R103): an enabled camera's port becomes DARK, any other OFF. -/
def camJoining (s : State) (i : Cam) : Camera :=
  let c := s.cams[i]
  { c with port := { c.port with state := if s.camEnabled i then .dark else .off } }

/-- The blocks at an entry into JOINING, before station control places its requests. -/
def joinBlocks (t : Settings) (s : State) : State :=
  let s1 := { s with strip := stripJoining s.time t s.strip,
                     cams := #v[camJoining s 0, camJoining s 1, camJoining s 2, camJoining s 3],
                     dlv := { s.dlv with active := t.takeOff } }
  let s2 := if unplaceable s1.strip.clock then markFallback s1 else s1
  offerKeptSeam s2

/-- Entry into JOINING (R24): a SIGNON request with the inbound UP, then a STATUS request, with their timers; with the inbound
DARK the station passes on at once to OPEN. -/
def enterJoining (s : State) : State :=
  match s.store.settings with
  | none => s
  | some t =>
    let s1 := joinBlocks t { s with ctl := { s.ctl with state := .joining, configValid := true, pendingReturn := [],
                                                        statusTimer := some s.time } }
    let s2 := if s.ring.link = .up then requestSignon { s1 with ctl := { s1.ctl with signonTimer := some s.time } } else s1
    let s3 := requestStatus s2
    if s.ring.link = .dark then enterOpen s3 else s3

/-- Entry into PASS_ONLY (R23, R29, R30, R69, R103, R178): every function is off, no settings are held, and SIGNON (with the
inbound UP) and STATUS are requested. -/
def enterPassOnly (s : State) : State :=
  let s1 :=
    { s with ctl := { s.ctl with state := .passOnly, statusTimer := some s.time },
             strip := { s.strip with encoder := .none, clock := .none, followed := none },
             cams := each (fun c => { c with port := { c.port with state := .off } }) s.cams,
             store := { s.store with settings := none, faults := .clear } }
  let s2 := if s.ring.link = .up then requestSignon { s1 with ctl := { s1.ctl with signonTimer := some s.time } } else s1
  requestStatus s2

/-- EEPROM_READ_COMPLETE (R176): with the read over, the record is judged, and the station enters JOINING or PASS_ONLY. -/
def execEepromReadComplete (s : State) : Host.Outcome State Fault Refusal :=
  .next <|
    if timerDue s.time s.store.readStart Config.readTime then
      let s1 := finishRead s
      if recordValid s1.store.image then enterJoining (takeSettings s1) else enterPassOnly s1
    else s

/-! ### Power-on reset (R20) -/

/-- The EEPROM after a power-on reset: a word being written holds its old or the written value (R175), which is free
(log 7). -/
def tornEeprom (s : State) : Vector Word16 128 :=
  match s.svc.write with
  | some w => put s.store.eeprom w.address
      (bif Config.tornWriteLands s.freeCount then w.value else s.store.eeprom[w.address])
  | none => s.store.eeprom

/-- POWER_ON_RESET (R20, R39, R67, R83, R99, R115, R129, R143, R161, R170, R179): the EEPROM, the input levels and the queue
stand, and every block takes its reset values. -/
def execPowerOnReset (straps : Station) (a b : Bool) (s : State) : Host.Outcome State Fault Refusal :=
  .next <|
    State.poweredOn (tornEeprom s) straps a b s.ring.lightAndLock (fun i => s.cams[i].port.lineValid) s.dlv.holdPin
      (s.freeCount + 1) s.pending

/-! ### Station restart (R21, R40, R68, R84, R100, R116, R130, R144, R162, R170) -/

/-- The ring port at a restart (R21), after the link has entered DARK. R21 does not name the idle run count; that it stands is the
model's DESIGN CHOICE (log 15). -/
def ringRestart (now : Time) (r : RingPort) : RingPort :=
  { r with reception := none, transit := [], outbound := none, aligning := true, began := now, lastRunEnd := none, idleUnits := 0,
           linkDelay := 0 }

/-- Station control at a restart (R40). -/
def controlRestart (straps : Station) (c : StationControl) : StationControl :=
  { c with number := straps, configValid := false, state := .start, pendingReturn := [], signonTimer := none,
           statusTimer := none, roll := Vector.replicate 16 RollEntry.blank }

/-- The strip position unit at a restart (R68). -/
def stripRestart (u : StripUnit) : StripUnit :=
  let u1 := { u with table := Vector.replicate 16 BeaconEntry.blank, beaconTimer := none, alignStart := none, aligned := false }
  if u.clock = .loc then u1 else { u1 with clock := .none, followed := none, source := .none }

/-- The seam unit at a restart (R84). -/
def seamRestart (u : SeamUnit) : SeamUnit :=
  { u with list := [], capture0 := none, capture1 := none, olderIsOne := false, lockoutEnd := 0 }

/-- Camera `i` at a restart (R100, R116, R130). -/
def camRestart (s : State) (i : Cam) : Camera :=
  Camera.reset (if s.camEnabled i then .dark else .off) s.cams[i].port.lineValid

/-- The ease unit at a restart (R144): the window timer runs on. -/
def easeRestart (e : EaseUnit) : EaseUnit := { EaseUnit.reset with windowTimer := e.windowTimer }

/-- The take-off unit at a restart (R162): the counters and the stored bytes stand. -/
def takeRestart (u : TakeOffUnit) : TakeOffUnit :=
  { u with contexts := Vector.replicate 32 none, free := List.finRange 512, queue := [] }

/-- A station restart: every block acts, the station enters START, and a new EEPROM read begins (R177). -/
def stationRestart (straps : Station) (opened : OpenParcel) (s0 : State) : State :=
  let s := enterDark opened s0
  { s with ring := ringRestart s.time s.ring, ctl := controlRestart straps s.ctl, strip := stripRestart s.strip,
           seam := seamRestart s.seam,
           cams := #v[camRestart s 0, camRestart s 1, camRestart s 2, camRestart s 3],
           seg := { s.seg with lines := [], control := [] }, ease := easeRestart s.ease, take := takeRestart s.take,
           dlv := { s.dlv with active := false, position := 0 },
           store := { s.store with readStart := some s.time, imageRead := 0 } }

end Sys2Proof.Machine
end

