-- ==== Sys2Proof/Machine/Service.lean ====
section
/-! DEFINITION. The commands of the service line and the writes of the settings EEPROM (Section 11). -/
namespace Sys2Proof.Machine

/-- The state in which a frame of the service line has ended (R171): the event that its clock edges bring is the last of the queue,
and the step that reaches it takes it. `straps` and `opened` are what a RESTART finds. -/
def State.withFrame (s : State) (bits : List Bool) (straps : Station) (opened : OpenParcel) : State :=
  { s with pending := s.pending ++ [frameCommand bits straps opened] }

/-- The state with the service line changed. -/
def onSvc (f : ServiceLine → ServiceLine) (s : State) : State := { s with svc := f s.svc }

/-- The command word of a code and an argument (Section 12.3). -/
def commandWord (code : BitVec 4) (arg : BitVec 12) : Word16 := code ++ arg

/-- A complete frame has brought a command word (R171). -/
def frame (code : BitVec 4) (arg : BitVec 12) (s : State) : State :=
  onSvc (fun v => { v with command := commandWord code arg }) s

/-- The reply register takes a reply (R171). -/
def loadReply (w : Word16) (s : State) : State := onSvc (fun v => { v with reply := w }) s

/-- The reply register takes a status reply with result `r`: station state, write in progress and hold pending as they stand
after the command (R172, Table 11.3). -/
def replyStatus (r : SvcResult) (s : State) : State := loadReply (statusReply s r) s

/-- The low half of an item. -/
def lowHalf (w : Word32) : Word16 := w.setWidth 16

/-- The high half of an item. -/
def highHalf (w : Word32) : Word16 := w.extractLsb' 16 16

/-- The reply takes the high half of the hold, and pending is clear (R173). -/
def replyHigh (s : State) : State :=
  onSvc (fun v => { v with reply := highHalf v.hold, holdPending := false }) s

/-! ### Counters (R177) -/

/-- The ring port with its station counters at 0 (items 4 to 8). -/
def clearRing (r : RingPort) : RingPort :=
  { r with crcFaults := 0, unknownKinds := 0, orphans := 0, transitOverruns := 0, partialDrops := 0 }

/-- The strip position unit with its station counters at 0 (items 15 to 18). -/
def clearStrip (u : StripUnit) : StripUnit :=
  { u with encoderErrors := 0, underrunClamps := 0, indexPulses := 0, sourceSwitches := 0 }

/-- The seam unit with its station counters at 0 (items 22 to 27). -/
def clearSeam (u : SeamUnit) : SeamUnit :=
  { u with bounces := 0, captureOverflows := 0, unplaced := 0, placed := 0, merged := 0, lost := 0 }

/-- The take-off unit with its station counters at 0 (items 34 to 39). -/
def clearTake (u : TakeOffUnit) : TakeOffUnit :=
  { u with linesTaken := 0, noContext := 0, orphanSegments := 0, brokenLines := 0, storeFull := 0, deliveryOverflow := 0 }

/-- The delivery port with its station counters at 0 (items 40 and 41). -/
def clearDelivery (d : DeliveryPort) : DeliveryPort := { d with takesIgnored := 0, recordsCut := 0 }

/-- Every station counter at 0; the counters of the cameras stay (R177). -/
def clearCounters (s : State) : State :=
  { s with ring := clearRing s.ring, strip := clearStrip s.strip, seam := clearSeam s.seam,
           seg := { s.seg with marksDropped := 0 }, ease := { s.ease with easesSent := 0 }, take := clearTake s.take,
           dlv := clearDelivery s.dlv }

/-! ### Meanings -/

/-- INCOMPLETE_FRAME (R171): the bits have been shifted into the command register; no command is taken, and the reply
register holds the reply it held. -/
def execIncompleteFrame (bits : List Bool) (s : State) : Host.Outcome State Fault Refusal :=
  .next (onSvc (fun v => { v with command := shiftIn v.command bits }) s)

/-- NOP (R173): with the hold pending the reply is its high half and pending is clear, else a status reply. -/
def execNop (arg : BitVec 12) (s : State) : Host.Outcome State Fault Refusal :=
  .next <|
    let s1 := frame 0 arg s
    if s.svc.holdPending then replyHigh s1 else replyStatus .ok s1

/-- ITEM (R173): the hold takes the item and becomes pending; the reply is its low half. -/
def execItem (arg : BitVec 12) (s : State) : Host.Outcome State Fault Refusal :=
  .next <|
    let value := serviceItem s (arg.toNat / 64) (arg.toNat % 64)
    onSvc (fun v => { v with hold := value, holdPending := true, reply := lowHalf value }) (frame 1 arg s)

/-- HIGH (R173): the reply is the high half of the hold, and pending is clear. -/
def execHigh (arg : BitVec 12) (s : State) : Host.Outcome State Fault Refusal := .next (replyHigh (frame 2 arg s))

/-- ROLL (R174): the roll entry is copied into the snapshot; above 15 the snapshot stays and the result is RANGE. -/
def execRoll (arg : BitVec 12) (s : State) : Host.Outcome State Fault Refusal :=
  .next <|
    let s1 := frame 3 arg s
    if h : arg.toNat < 16 then replyStatus .ok (onSvc (fun v => { v with snapshot := s.ctl.roll[arg.toNat] }) s1)
    else replyStatus .range s1

/-- EEADDR (R175): the EEPROM address is set; above 127 it stays and the result is RANGE. -/
def execEeaddr (arg : BitVec 12) (s : State) : Host.Outcome State Fault Refusal :=
  .next <|
    let s1 := frame 4 arg s
    if h : arg.toNat < 128 then replyStatus .ok (onSvc (fun v => { v with address := ⟨arg.toNat, h⟩ }) s1)
    else replyStatus .range s1

/-- EELO (R175): the low byte of the data latch is loaded. -/
def execEelo (arg : BitVec 12) (s : State) : Host.Outcome State Fault Refusal :=
  .next <|
    replyStatus .ok
      (onSvc (fun v => { v with latch := v.latch.extractLsb' 8 8 ++ arg.extractLsb' 0 8 }) (frame 5 arg s))

/-- EEHI (R175): the high byte of the data latch is loaded. -/
def execEehi (arg : BitVec 12) (s : State) : Host.Outcome State Fault Refusal :=
  .next <|
    replyStatus .ok
      (onSvc (fun v => { v with latch := arg.extractLsb' 0 8 ++ v.latch.extractLsb' 0 8 }) (frame 6 arg s))

/-- Whether EEWRITE is refused with BUSY (R175): a write, or the EEPROM read of START, is in progress. -/
def writeBusy (s : State) : Bool := s.svc.write.isSome || s.store.readStart.isSome

/-- EEWRITE (R175): refused with BUSY, or at addresses 2 and 3 with PROTECTED, or a write of the latch begins. -/
def execEewrite (arg : BitVec 12) (s : State) : Host.Outcome State Fault Refusal :=
  .next <|
    let s1 := frame 7 arg s
    if writeBusy s then replyStatus .busy s1
    else if s.svc.address = 2 ∨ s.svc.address = 3 then replyStatus .isProtected s1
    else
      replyStatus .ok
        (onSvc (fun v => { v with write := some { address := v.address, value := v.latch, began := s.time } }) s1)

/-- EEREAD (R175): the reply is the image word at the address. -/
def execEeread (arg : BitVec 12) (s : State) : Host.Outcome State Fault Refusal :=
  .next (loadReply s.store.image[s.svc.address] (frame 8 arg s))

/-- CLEAR (R177). -/
def execClear (arg : BitVec 12) (s : State) : Host.Outcome State Fault Refusal :=
  .next (replyStatus .ok (clearCounters (frame 9 arg s)))

/-- RESTART (R177): refused with BUSY during a write, else a station restart. -/
def execRestart (arg : BitVec 12) (straps : Station) (opened : OpenParcel) (s : State) : Host.Outcome State Fault Refusal :=
  .next <|
    let s1 := frame 10 arg s
    if s.svc.write.isSome then replyStatus .busy s1 else replyStatus .ok (stationRestart straps opened s1)

/-- UNKNOWN_COMMAND (R172): no effect, and a status reply with result UNKNOWN. -/
def execUnknownCommand (code : BitVec 4) (arg : BitVec 12) (s : State) : Host.Outcome State Fault Refusal :=
  .next (replyStatus .unknown (frame code arg s))

/-- EEPROM_WRITE_COMPLETION (R175): the EEPROM word and the image word take the value, and no write is in progress. -/
def execEepromWriteCompletion (s : State) : Host.Outcome State Fault Refusal :=
  .next <|
    match s.svc.write with
    | none => s
    | some w =>
      { s with store := { s.store with eeprom := put s.store.eeprom w.address w.value,
                                       image := put s.store.image w.address w.value },
               svc := { s.svc with write := none } }

end Sys2Proof.Machine
end

