-- ==== Sys2Proof/Machine/Dispatch.lean ====
section
/-! DEFINITION. The effect of a command on everything but the queue: one arm for each constructor of Instr. -/
namespace Sys2Proof.Machine

/-- The meaning of a command. -/
def exec (i : Instr) (s : State) : Host.Outcome State Fault Refusal :=
  match i with
  | .powerOnReset straps a b => Sys2Proof.Machine.execPowerOnReset straps a b s
  | .lightAndLock => Sys2Proof.Machine.execLightAndLock s
  | .lossOfLightOrLock opened => Sys2Proof.Machine.execLossOfLightOrLock opened s
  | .inboundUp => Sys2Proof.Machine.execInboundUp s
  | .partialDrop chars cause => Sys2Proof.Machine.execPartialDrop chars cause s
  | .parcelArrival chars => Sys2Proof.Machine.execParcelArrival chars s
  | .sendCompletion => Sys2Proof.Machine.execSendCompletion s
  | .alignmentRunEnd => Sys2Proof.Machine.execAlignmentRunEnd s
  | .eepromReadComplete => Sys2Proof.Machine.execEepromReadComplete s
  | .signonTimerExpiry => Sys2Proof.Machine.execSignonTimerExpiry s
  | .statusTimerExpiry => Sys2Proof.Machine.execStatusTimerExpiry s
  | .returnWatchExpiry => Sys2Proof.Machine.execReturnWatchExpiry s
  | .clashExpiry n => Sys2Proof.Machine.execClashExpiry n s
  | .silenceExpiry n => Sys2Proof.Machine.execSilenceExpiry n s
  | .encoderSample a b => Sys2Proof.Machine.execEncoderSample a b s
  | .indexPulse => Sys2Proof.Machine.execIndexPulse s
  | .cleanExpiry => Sys2Proof.Machine.execCleanExpiry s
  | .coordinateUpdate => Sys2Proof.Machine.execCoordinateUpdate s
  | .speedWindowExpiry => Sys2Proof.Machine.execSpeedWindowExpiry s
  | .beaconTimerExpiry => Sys2Proof.Machine.execBeaconTimerExpiry s
  | .staleExpiry n => Sys2Proof.Machine.execStaleExpiry n s
  | .removalExpiry n => Sys2Proof.Machine.execRemovalExpiry n s
  | .alignmentEnd => Sys2Proof.Machine.execAlignmentEnd s
  | .seamEdge => Sys2Proof.Machine.execSeamEdge s
  | .triggerPulseEnd k => Sys2Proof.Machine.execTriggerPulseEnd k s
  | .lastTriggerTimeLapse k => Sys2Proof.Machine.execLastTriggerTimeLapse k s
  | .triggerTimeout k => Sys2Proof.Machine.execTriggerTimeout k s
  | .lineValidRise k => Sys2Proof.Machine.execLineValidRise k s
  | .lineCompletion k pixels => Sys2Proof.Machine.execLineCompletion k pixels s
  | .darkExpiry k => Sys2Proof.Machine.execDarkExpiry k s
  | .easeWindowExpiry => Sys2Proof.Machine.execEaseWindowExpiry s
  | .easeEntryExpiry n => Sys2Proof.Machine.execEaseEntryExpiry n s
  | .assemblyTimeout k => Sys2Proof.Machine.execAssemblyTimeout k s
  | .dlvTake => Sys2Proof.Machine.execDlvTake s
  | .dlvCut => Sys2Proof.Machine.execDlvCut s
  | .dlvHold level => Sys2Proof.Machine.execDlvHold level s
  | .incompleteFrame bits => Sys2Proof.Machine.execIncompleteFrame bits s
  | .nop arg => Sys2Proof.Machine.execNop arg s
  | .item arg => Sys2Proof.Machine.execItem arg s
  | .high arg => Sys2Proof.Machine.execHigh arg s
  | .roll arg => Sys2Proof.Machine.execRoll arg s
  | .eeaddr arg => Sys2Proof.Machine.execEeaddr arg s
  | .eelo arg => Sys2Proof.Machine.execEelo arg s
  | .eehi arg => Sys2Proof.Machine.execEehi arg s
  | .eewrite arg => Sys2Proof.Machine.execEewrite arg s
  | .eeread arg => Sys2Proof.Machine.execEeread arg s
  | .clear arg => Sys2Proof.Machine.execClear arg s
  | .restart arg straps opened => Sys2Proof.Machine.execRestart arg straps opened s
  | .unknownCommand code arg => Sys2Proof.Machine.execUnknownCommand code arg s
  | .eepromWriteCompletion => Sys2Proof.Machine.execEepromWriteCompletion s
  | .syncingCharacter c => Sys2Proof.Machine.execSyncingCharacter c s

end Sys2Proof.Machine
end

