-- ==== Sys2Proof/Machine/Events.lean ====
section
/-! DEFINITION. What the station does by itself while no command waits (log 1, 2, 3): it raises its own expiries and
completions when they fall, and else lets one unit of station time pass. -/
namespace Sys2Proof.Machine

/-! ### Events that have fallen -/

/-- A command when its condition holds. -/
def dueIf (c : Bool) (i : Instr) : List Instr := if c then [i] else []

/-- The events of the link, of station control and of the settings store that have fallen. -/
def dueControl (s : State) : List Instr :=
  dueIf (s.ring.link == .dark && s.ring.lightAndLock) .lightAndLock
    ++ dueIf (timerDue s.time s.store.readStart Config.readTime) .eepromReadComplete
    ++ dueIf (timerDue s.time (s.svc.write.map EepromWrite.began) Config.writeTime) .eepromWriteCompletion
    ++ dueIf (timerDue s.time s.ctl.signonTimer Config.signonPeriod) .signonTimerExpiry
    ++ dueIf (timerDue s.time s.ctl.statusTimer Config.statusPeriod) .statusTimerExpiry
    ++ dueIf (returnWatchDue s) .returnWatchExpiry

/-- The completion of the sending or of the alignment run in progress, in the last unit in which it can fall (R13, R14). -/
def dueOutbound (s : State) : List Instr :=
  (match s.ring.outbound with
    | some p => dueIf (mustSent s (charsToSend p)) .sendCompletion
    | none => [])
    ++ dueIf (s.ring.aligning && mustSent s Config.idlesToUp) .alignmentRunEnd

/-- The events of the strip position unit and the ease unit that have fallen, but for those of one table entry. -/
def dueStrip (s : State) : List Instr :=
  dueIf (reached s.time s.strip.updateTimer Config.updatePeriod) .coordinateUpdate
    ++ dueIf (reached s.time s.strip.windowTimer Config.speedWindow) .speedWindowExpiry
    ++ dueIf (timerDue s.time s.strip.beaconTimer Config.beaconPeriod) .beaconTimerExpiry
    ++ dueIf (cleanDue s) .cleanExpiry
    ++ dueIf (timerDue s.time s.strip.alignStart Config.listenTime) .alignmentEnd
    ++ dueIf (reached s.time s.ease.windowTimer Config.easeWindow) .easeWindowExpiry

/-- The events of station `n`'s table entries that have fallen. -/
def dueStation (s : State) (n : Station) : List Instr :=
  dueIf (clashDue s n) (.clashExpiry n) ++ dueIf (silenceDue s n) (.silenceExpiry n) ++ dueIf (staleDue s n) (.staleExpiry n)
    ++ dueIf (removalDue s n) (.removalExpiry n) ++ dueIf (easeDue s n) (.easeEntryExpiry n)

/-- The events of camera `i` that have fallen. -/
def dueCamera (s : State) (i : Cam) : List Instr :=
  dueIf (timerDue s.time s.cams[i].trig.pulse Config.pulseTime) (.triggerPulseEnd i)
    ++ dueIf (timerDue s.time s.cams[i].trig.lastTrigger Config.triggerLapse) (.lastTriggerTimeLapse i)
    ++ dueIf (timeoutDue s i) (.triggerTimeout i) ++ dueIf (darkDue s i) (.darkExpiry i)

/-- The assembly timeout of context `k`, if it has fallen. -/
def dueContext (s : State) (k : Fin 32) : List Instr := dueIf (assemblyDue s k) (.assemblyTimeout k)

/-- Every event of the station's own that has fallen. -/
def dueEvents (s : State) : List Instr :=
  dueControl s ++ dueOutbound s ++ dueStrip s ++ (List.finRange 16).flatMap (dueStation s) ++ (List.finRange 4).flatMap (dueCamera s)
    ++ (List.finRange 32).flatMap (dueContext s)

/-- The event taken first of several that have fallen: free (0.4.4, log 3). -/
def pickEvent (freeCount : Nat) (l : List Instr) : Option Instr := l[Config.eventOrder freeCount % l.length]?

/-! ### A unit of station time -/

/-- The image with its first `n` words read from the EEPROM (R176). -/
def readWords (n : Nat) (eeprom image : Vector Word16 128) : Vector Word16 128 :=
  ⟨⟨eeprom.toList.take n ++ image.toList.drop n⟩, by simp; omega⟩

/-- The EEPROM read goes on during one unit: the read replaces words in order, how many is free (R176, log 6). -/
def readOn (s : State) : State :=
  if s.store.readStart.isSome && decide (s.store.imageRead < 128) then
    let n := min 128 (s.store.imageRead + Config.readAdvance s.freeCount)
    { s.bump with store := { s.store with imageRead := n, image := readWords n s.store.eeprom s.store.image } }
  else s

/-- One unit of station time passes (R2): an idle run in progress gets one unit longer (R14), and a read goes on. -/
def tick (s : State) : State :=
  let s1 := readOn s
  { s1 with time := s1.time + 1,
            ring := { s1.ring with idleUnits :=
              if s1.ring.outbound.isNone && !s1.ring.aligning then min 2 (s1.ring.idleUnits + 1) else s1.ring.idleUnits } }

/-! ### The idle step -/

/-- The step on an empty queue (log 1, 3): with no event fallen a unit of time passes; with one fallen it joins the queue; of
several, one that is free to be any of them joins the queue. -/
def idleStep (s : State) : State :=
  match dueEvents s with
  | [] => tick s
  | [c] => { s with pending := [c] }
  | c :: d :: l => { s.bump with pending := (pickEvent s.freeCount (c :: d :: l)).toList }

end Sys2Proof.Machine
end

