-- ==== Sys2Proof/Safety.lean ====
section
/-! DEFINITION. What the manual says never fails, as properties of one state; and the frames that the statements use. -/
namespace Sys2Proof.Safety

open Sys2Proof.Machine

/-! ### Buffers and queues -/

/-- The transit buffer never holds more than 16,384 bytes (R12). -/
def TransitWithin (s : State) : Prop := transitOccupancy s.ring.transit ≤ Config.transitCapacity

/-- With the outbound port idle and no alignment run being sent, no transit parcel waits (R14, R15); during an alignment run
nothing is being sent. -/
def IdlePortDrained (s : State) : Prop :=
  (s.ring.aligning = true → s.ring.outbound = none)
    ∧ (s.ring.aligning = false → s.ring.outbound = none → s.ring.transit = [])

/-- Between events the receiver holds no parcel, or one just opened (R2, log 12). -/
def ReceptionFresh (s : State) : Prop := s.ring.reception = none ∨ s.ring.reception = some { bytes := [], count := 0 }

/-- The line queue occupancy stays within 262,144 bytes (R119, R122). -/
def LinesWithin (s : State) : Prop := lineOccupancy s.seg.lines ≤ Config.lineCapacity

/-- The control parcels of one kind that are queued. -/
def queuedOf (k : Kind) (s : State) : Nat := (s.seg.control.filter (fun p => p.body.kind == k)).length

/-- The control queue holds at most one parcel of each of SIGNON, STATUS, BEACON and EASE, at most twelve MARKs, and at most
16 parcels (R124). -/
def ControlWithin (s : State) : Prop :=
  queuedOf .signon s ≤ 1 ∧ queuedOf .status s ≤ 1 ∧ queuedOf .beacon s ≤ 1 ∧ queuedOf .ease s ≤ 1
    ∧ queuedOf .mark s ≤ Config.markPlaces ∧ s.seg.control.length ≤ 16

/-- The bounded lists: pending returns (R27), illegal steps (R43), trigger FIFOs (R95) and delivery records (R157). -/
def ListsWithin (s : State) : Prop :=
  s.ctl.pendingReturn.length ≤ Config.pendingReturns ∧ s.strip.illegal.length ≤ Config.illegalSteps
    ∧ (∀ i : Cam, s.cams[i].trig.fifo.length ≤ Config.fifoRecords) ∧ s.take.queue.length ≤ Config.deliveryRecords

/-! ### Seams -/

/-- The seam list holds at most 8 entries, in ascending order of seam coordinate, no two within 2,000 su (R77). -/
def SeamListOrdered (s : State) : Prop :=
  s.seam.list.length ≤ Config.seamEntries
    ∧ s.seam.list.Pairwise (fun a b => a.coord.toNat + Config.mergeDistance < b.coord.toNat)

/-! ### Take-off -/

/-- The blocks of a context. -/
def contextBlocks : Option Assembly → List Block
  | some a => a.blocks
  | none => []

/-- Every block number the take-off unit accounts for: free, in a record of the delivery queue, or in a context. -/
def blocksOf (u : TakeOffUnit) : List Block :=
  u.free ++ u.queue.flatMap DeliveryRecord.blocks ++ u.contexts.toList.flatMap contextBlocks

/-- Each block is on the free list, in one context or in one delivery record (R155). -/
def BlocksAccounted (s : State) : Prop := (blocksOf s.take).Perm (List.finRange 512)

/-- At most one ASSEMBLING context for each stream (R148). -/
def OneContextPerStream (s : State) : Prop :=
  ∀ (j k : Fin 32) (a b : Assembly), s.take.contexts[j] = some a → s.take.contexts[k] = some b → a.stream = b.stream → j = k

/-- A context holds exactly the segments below its next index, and its line is begun and not whole (R149). -/
def ContextsInPart (s : State) : Prop :=
  ∀ (k : Fin 32) (a : Assembly), s.take.contexts[k] = some a →
    a.blocks.length = a.next ∧ 1 ≤ a.next ∧ a.next < a.segCount ∧ a.segCount ≤ 16

/-- The word position lies within the head record, and is 0 with no record (R164 to R167). -/
def PositionWithin (s : State) : Prop :=
  match s.take.queue with
  | [] => s.dlv.position = 0
  | r :: _ => s.dlv.position < wordCount r

/-- The line store is in canonical form. -/
def StoreCanonical (s : State) : Prop := s.take.store.wf = true

/-! ### Modes -/

/-- What the strip clock state says of the encoder, of the position source and of the followed entry (Table 3.8, R56, R61). -/
def ClockSound (s : State) : Prop :=
  match s.strip.clock with
  | .loc => s.strip.encoder = .good ∧ s.strip.followed = none ∧ s.strip.source = .loc
  | .none | .held => s.strip.encoder ≠ .good ∧ s.strip.followed = none
  | .following => s.strip.encoder ≠ .good
      ∧ ∃ n, s.strip.followed = some n ∧ s.strip.source = .station n ∧ s.strip.table[n].condition = .fresh
  | .coasting => s.strip.encoder ≠ .good
      ∧ ∃ n, s.strip.followed = some n ∧ s.strip.source = .station n ∧ s.strip.table[n].condition = .stale

/-- In JOINING, RUNNING and OPEN settings are held and the configuration-valid flag is set; in START and PASS_ONLY the flag is
clear; in PASS_ONLY no settings are held (log 17); the read of START is in progress in START alone; and the delivery port is active
at an office station that runs (R23, R163, R176). -/
def ModesSound (s : State) : Prop :=
  (s.ctl.state = .joining ∨ s.ctl.state = .running ∨ s.ctl.state = .ringOpen →
      s.store.settings.isSome = true ∧ s.ctl.configValid = true)
    ∧ (s.ctl.state = .start ∨ s.ctl.state = .passOnly → s.ctl.configValid = false)
    ∧ (s.ctl.state = .passOnly → s.store.settings = none)
    ∧ (s.store.readStart.isSome = true ↔ s.ctl.state = .start)
    ∧ s.dlv.active = (s.ctl.state.runs && s.takeOffEnabled)

/-! ### The station's own events -/

/-- When each of the station's own expiries and completions has fallen; the events that come from outside never fall so. LIGHT_AND_LOCK
after a reset is log 14's, the latest unit of a sending and of an alignment run log 5's, the latest completion of a write log 2's. -/
def HasFallen (s : State) : Instr → Prop
  | .lightAndLock => s.ring.link = .dark ∧ s.ring.lightAndLock = true
  | .eepromReadComplete => ∃ b, s.store.readStart = some b ∧ 20000 ≤ (s.time - b).toNat
  | .eepromWriteCompletion => ∃ w, s.svc.write = some w ∧ 50000 ≤ (s.time - w.began).toNat
  | .signonTimerExpiry => ∃ b, s.ctl.signonTimer = some b ∧ 100000 ≤ (s.time - b).toNat
  | .statusTimerExpiry => ∃ b, s.ctl.statusTimer = some b ∧ 100000 ≤ (s.time - b).toNat
  | .returnWatchExpiry => ∃ r rest, s.ctl.pendingReturn = r :: rest ∧ 300000 ≤ (s.time - r.launch).toNat
  | .sendCompletion =>
    ∃ p, s.ring.outbound = some p ∧ (p.bytes.length + 2 + 124) / 125 ≤ (s.time - s.ring.began).toNat
  | .alignmentRunEnd => s.ring.aligning = true ∧ (64 + 124) / 125 ≤ (s.time - s.ring.began).toNat
  | .coordinateUpdate => 10 ≤ (s.time - s.strip.updateTimer).toNat
  | .speedWindowExpiry => 640 ≤ (s.time - s.strip.windowTimer).toNat
  | .beaconTimerExpiry => ∃ b, s.strip.beaconTimer = some b ∧ 2500 ≤ (s.time - b).toNat
  | .cleanExpiry => s.strip.encoder = .fault ∧ ∃ x, s.strip.illegal.getLast? = some x ∧ 100000 ≤ (s.time - x).toNat
  | .alignmentEnd => ∃ b, s.strip.alignStart = some b ∧ 50000 ≤ (s.time - b).toNat
  | .easeWindowExpiry => 1000 ≤ (s.time - s.ease.windowTimer).toNat
  | .clashExpiry n => s.ctl.roll[n].condition = .clash ∧ 10000000 ≤ (s.time - s.ctl.roll[n].identityChange).toNat
  | .silenceExpiry n => (s.ctl.roll[n].condition = .present ∨ s.ctl.roll[n].condition = .clash)
      ∧ 1000000 ≤ (s.time - s.ctl.roll[n].receipt).toNat
  | .staleExpiry n => s.strip.table[n].condition = .fresh ∧ 20000 ≤ (s.time - s.strip.table[n].receipt).toNat
  | .removalExpiry n => s.strip.table[n].condition = .stale ∧ 200000 ≤ (s.time - s.strip.table[n].receipt).toNat
  | .easeEntryExpiry n => s.ease.table[n].live = true ∧ 10000 ≤ (s.time - (s.ease.table[n].expiry - 10000)).toNat
  | .triggerPulseEnd i => ∃ b, s.cams[i].trig.pulse = some b ∧ 10 ≤ (s.time - b).toNat
  | .lastTriggerTimeLapse i => ∃ b, s.cams[i].trig.lastTrigger = some b ∧ 65535 ≤ (s.time - b).toNat
  | .triggerTimeout i => ∃ c r rest, s.camSettings i = some c ∧ s.cams[i].trig.fifo = r :: rest ∧ s.ctl.state.runs = true
      ∧ c.enabled = true ∧ c.free = false ∧ c.timeout ≤ (s.time - r.fired).toNat
  | .darkExpiry i => s.ctl.state.runs = true
      ∧ (s.cams[i].port.state = .sizing ∨ s.cams[i].port.state = .locked ∨ s.cams[i].port.state = .mismatch)
      ∧ ∃ b, s.cams[i].port.darkWatch = some b ∧ 100000 ≤ (s.time - b).toNat
  | .assemblyTimeout k => ∃ a, s.take.contexts[k] = some a ∧ s.ctl.state.runs = true ∧ s.takeOffEnabled = true
      ∧ 50000 ≤ (s.time - a.lastArrival).toNat
  | _ => False

/-! ### Counters -/

/-- For each camera LINES_PRODUCED equals LINES_ADMITTED + LINES_THINNED + LINES_REFUSED, while none is saturated (R128). -/
def LinesBalance (s : State) : Prop :=
  ∀ i : Cam, s.cams[i].port.produced.toNat
    = min (s.cams[i].adm.admitted.toNat + s.cams[i].adm.thinned.toNat + s.cams[i].adm.refused.toNat) (2 ^ 32 - 1)

/-! ### What an arrival brings -/

/-- The event closes, in UP, a sound parcel of known kind `k` and of that kind's size, with header and body `p` (R2, R4, R5). -/
def Brings (s : State) (chars : List Byte) (k : Kind) (p : List Byte) : Prop :=
  s.ring.link = .up ∧ sound (receiveRun s.ring.reception chars) = true
    ∧ kindField (receiveRun s.ring.reception chars).bytes = some k
    ∧ k.sizeOk (receiveRun s.ring.reception chars).count = true
    ∧ p = (receiveRun s.ring.reception chars).bytes.take ((receiveRun s.ring.reception chars).count - 4)

/-- The source and the origin key of a parcel are both the station's own (R6). -/
def OwnParcel (s : State) (p : List Byte) : Prop :=
  sourceField p = s.ctl.number ∧ ∃ id, s.ctl.identity = some id ∧ keyField p = id.setWidth 16

/-- The common header of an own parcel (Table 12.1): the kind's code, hops-left 15 and the source, the key, the body length `n`, and the
header length 7; and `n` bytes follow it. -/
def HasHeader (h : OwnHeader) (code : Byte) (n : Nat) (p : List Byte) : Prop :=
  p.length = 7 + n ∧ byteAt p 0 = code ∧ (byteAt p 1).toNat = 15 * 16 + h.source.val ∧ field p 2 2 16 = h.key
    ∧ (field p 4 2 16).toNat = n ∧ byteAt p 6 = 7

/-- The state with the reception record emptied at an arrival (R2). -/
def received (s : State) : State := { s with ring := { s.ring with reception := none } }

/-- The outbound port sends a parcel or an alignment run, so that a join makes no outbound-free event (R14). -/
def PortBusy (s : State) : Prop := s.ring.outbound.isSome = true ∨ s.ring.aligning = true

/-! ### Invariants -/

/-- A property of one state that every step keeps: it holds after any step that answers a next state. -/
def Kept (Inv : State → Prop) : Prop := ∀ s t, Inv s → step s = .next t → Inv t

end Sys2Proof.Safety
end

