-- ==== Sys2Proof/Certificates/Slice0/Obligations.lean ====
section
/-! DEFINITION. The statements about the station, for the provers. A statement is stated from a rule of spec/ where
OBLIGATIONS.json quotes the rule, and derived from the sections it names elsewhere. -/

open Sys2Proof Sys2Proof.Machine Sys2Proof.Safety

/-! ### The queue and the station's own events -/

/-- Step of a state with a command at the front of its queue is exec of that command on the state with the queue's rest. -/
def Obligations.FrontCommandRuns : Prop :=
  ∀ (c : Instr) (rest : List Instr) (s : State), s.pending = c :: rest → step s = exec c { s with pending := rest }

/-- Every command of the table completes: exec answers a next state for every command in every state, the queue stays, and
station time stays except at a power-on reset. That a command takes no station time is the model's choice (log 1), and so is the next
state at an event that the state of the block makes impossible (log 20). -/
def Obligations.EveryCommandCompletes : Prop :=
  ∀ (c : Instr) (s : State), ∃ t, exec c s = .next t ∧ t.pending = s.pending
    ∧ ((∀ straps a b, c ≠ .powerOnReset straps a b) → t.time = s.time)

/-- The model's choice (log 1, 3, 5 and 6): on an empty queue, with no event of the station's own due, one unit of station time
passes and nothing else changes but the age of the idle run (R14), which rises to 2 at most while the port is idle, and the words an
EEPROM read has replaced (R176), which are the EEPROM's below a mark that only rises and stand above it; with events due, one of them
joins the queue and no time passes. The events due are the station's own expiries and completions that have fallen, each at the end of
its period or delay (`HasFallen`, which names the log entries 2, 5 and 14 for the three moments that the model chose). -/
def Obligations.EmptyQueueStep : Prop :=
  (∀ (s : State) (c : Instr), c ∈ dueEvents s ↔ HasFallen s c)
  ∧ ∀ s : State, s.pending = [] →
    (dueEvents s = [] → ∃ t, step s = .next t ∧ t.time = s.time + 1
      ∧ t = { s with time := t.time, freeCount := t.freeCount, ring := { s.ring with idleUnits := t.ring.idleUnits },
                     store := { s.store with imageRead := t.store.imageRead, image := t.store.image } }
      ∧ t.ring.idleUnits = (if s.ring.outbound = none ∧ s.ring.aligning = false then min 2 (s.ring.idleUnits + 1)
          else s.ring.idleUnits)
      ∧ (s.store.readStart = none ∨ 128 ≤ s.store.imageRead → t.store = s.store)
      ∧ (s.store.readStart ≠ none → s.store.imageRead < 128 →
          s.store.imageRead ≤ t.store.imageRead ∧ t.store.imageRead ≤ 128
          ∧ ∀ j : Fin 128, t.store.image[j]
              = if j.val < t.store.imageRead then s.store.eeprom[j] else s.store.image[j]))
    ∧ (dueEvents s ≠ [] → ∃ c ∈ dueEvents s, ∃ n, step s = .next { s with pending := [c], freeCount := n })

/-! ### Resets -/

/-- R39: station control after a power-on reset, and the EEPROM read that begins. -/
def Obligations.PowerOnResetOfStationControl : Prop :=
  ∀ (straps : Station) (a b : Bool) (s : State), ∃ t, exec (.powerOnReset straps a b) s = .next t
    ∧ t.ctl.state = .start ∧ t.ctl.number = straps ∧ t.ctl.identity = none ∧ t.ctl.configValid = false
    ∧ t.ctl.sequence = 0 ∧ t.ctl.pendingReturn = [] ∧ t.ctl.signonTimer = none ∧ t.ctl.statusTimer = none
    ∧ (∀ n : Station, t.ctl.roll[n] =
        { condition := .absent, identity := none, lastSequence := none, receipt := 0, identityChange := 0, missed := 0,
          functions := none, contents := none })
    ∧ t.time = 0 ∧ t.store.readStart = some t.time ∧ t.store.imageRead = 0

/-- The other blocks after a power-on reset; the encoder pair is the one then present (R42), the image is zero (R176), the fault flags
are clear (R178), and a word being written holds its old or the written value (R175). The model's choices: the levels of light and lock,
line-valid and DLV_HOLD stand (log 10), the EEPROM stands (log 8), the age of the idle run is 0 (log 5), the expiry time of an empty ease
entry is 0 (log 24), and the queue stays. -/
def Obligations.PowerOnResetOfTheBlocks : Prop :=
  ∀ (straps : Station) (a b : Bool) (s : State), ∃ t, exec (.powerOnReset straps a b) s = .next t
    ∧ t.ring = { link := .dark, idleRun := 0, lightAndLock := s.ring.lightAndLock, reception := none, transit := [],
                 outbound := none, aligning := true, began := 0, lastRunEnd := none, idleUnits := 0, linkDelay := 0,
                 crcFaults := 0, unknownKinds := 0, orphans := 0, transitOverruns := 0, partialDrops := 0 }
    ∧ t.strip.count = 0 ∧ t.strip.heldA = a ∧ t.strip.heldB = b ∧ t.strip.lastCount = 0 ∧ t.strip.x = 0 ∧ t.strip.residue = 0
    ∧ t.strip.xhat = 0 ∧ t.strip.vs = 0 ∧ t.strip.windowAdvance = 0 ∧ (∀ n : Station, t.strip.table[n] = .blank)
    ∧ t.strip.illegal = [] ∧ t.strip.encoder = .none ∧ t.strip.clock = .none ∧ t.strip.followed = none
    ∧ t.strip.source = .none ∧ t.strip.beaconSequence = 0 ∧ t.strip.beaconTimer = none ∧ t.strip.aligned = false
    ∧ t.strip.updateTimer = 0 ∧ t.strip.windowTimer = 0 ∧ t.strip.encoderErrors = 0 ∧ t.strip.underrunClamps = 0
    ∧ t.strip.indexPulses = 0 ∧ t.strip.sourceSwitches = 0
    ∧ t.seam.list = [] ∧ t.seam.capture0 = none ∧ t.seam.capture1 = none ∧ t.seam.lockoutEnd = 0 ∧ t.seam.highest = 0
    ∧ t.seam.latest = none ∧ t.seam.bounces = 0 ∧ t.seam.captureOverflows = 0 ∧ t.seam.unplaced = 0 ∧ t.seam.placed = 0
    ∧ t.seam.merged = 0 ∧ t.seam.lost = 0
    ∧ (∀ i : Cam, t.cams[i].trig =
          { coil := 0, origin := 0, nLast := -1, current := 0, lastTrigger := none, fallbackMark := none, pulse := none,
            fifo := [], sourceChange := false, issued := 0, overspeed := 0, suppressed := 0, skipped := 0, missing := 0,
            unsolicited := 0 }
        ∧ t.cams[i].port =
          { state := .off, lineValid := s.cams[i].port.lineValid, line := none, lastLength := 0, run := none, locked := none,
            mismatched := none, deviation := 0, darkWatch := none, serial := 0, produced := 0 }
        ∧ t.cams[i].adm = { phase := 0, thinnedSince := 0, admitted := 0, thinned := 0, refused := 0 })
    ∧ t.seg = { lines := [], control := [], marksDropped := 0 }
    ∧ t.ease.bytes = 0 ∧ t.ease.waiting = 0 ∧ t.ease.blocked = 0 ∧ t.ease.rate = 0 ∧ t.ease.originating = false
    ∧ t.ease.phase = false ∧ t.ease.windowTimer = 0 ∧ t.ease.easesSent = 0
    ∧ (∀ n : Station, t.ease.table[n] = { share := 0, expiry := 0, live := false })
    ∧ (∀ k : Fin 32, t.take.contexts[k] = none) ∧ t.take.free = List.finRange 512 ∧ t.take.queue = []
    ∧ t.take.linesTaken = 0 ∧ t.take.noContext = 0 ∧ t.take.orphanSegments = 0 ∧ t.take.brokenLines = 0
    ∧ t.take.storeFull = 0 ∧ t.take.deliveryOverflow = 0
    ∧ t.dlv = { active := false, position := 0, holdPin := s.dlv.holdPin, takesIgnored := 0, recordsCut := 0 }
    ∧ t.svc.address = 0 ∧ t.svc.latch = 0 ∧ t.svc.hold = 0 ∧ t.svc.holdPending = false ∧ t.svc.write = none
    ∧ t.svc.snapshot = .blank ∧ t.svc.reply = statusReply t .ok
    ∧ t.store.settings = none ∧ t.store.faults = { encoder := false, seamInput := false, takeOff := false, cameras := 0 }
    ∧ (∀ j : Fin 128, t.store.image[j] = 0)
    ∧ (∀ j : Fin 128, t.store.eeprom[j] = s.store.eeprom[j]
        ∨ ∃ w, s.svc.write = some w ∧ w.address = j ∧ t.store.eeprom[j] = w.value)
    ∧ t.pending = s.pending

/-- RESTART (R177): during a write it is refused with BUSY and has no effect; otherwise it restarts every block, in every
station state, and its reply carries START. The age 0 of the idle run
and the mark of the older capture are the model's choices (log 5, 24), and so is the idle run count, which stands (log 15). -/
def Obligations.RestartActsOnEveryBlock : Prop :=
  ∀ (arg : BitVec 12) (straps : Station) (opened : OpenParcel) (s : State),
    (s.svc.write.isSome = true →
      exec (.restart arg straps opened) s =
        .next { s with svc := { s.svc with command := commandWord 10 arg, reply := statusReply s .busy } })
    ∧ (s.svc.write = none →
      ∃ t, exec (.restart arg straps opened) s = .next t ∧ t.pending = s.pending ∧ t.time = s.time
        ∧ t.ring = { s.ring with
              link := .dark, reception := none, transit := [], outbound := none, aligning := true, began := s.time,
              lastRunEnd := none, idleUnits := 0, linkDelay := 0,
              partialDrops :=
                if s.ring.link = .up ∧ (s.ring.reception.isSome = true ∨ opened.isSome = true)
                then satInc s.ring.partialDrops else s.ring.partialDrops }
        ∧ t.ctl = { s.ctl with
              number := straps, state := .start, configValid := false, pendingReturn := [], signonTimer := none,
              statusTimer := none, roll := Vector.replicate 16 .blank }
        ∧ t.strip = { s.strip with
              table := Vector.replicate 16 .blank, beaconTimer := none, alignStart := none, aligned := false,
              clock := if s.strip.clock = .loc then .loc else .none,
              followed := if s.strip.clock = .loc then s.strip.followed else none,
              source := if s.strip.clock = .loc then s.strip.source else .none }
        ∧ t.seam = { s.seam with list := [], capture0 := none, capture1 := none, olderIsOne := false, lockoutEnd := 0 }
        ∧ (∀ i : Cam, t.cams[i] =
              { trig := .reset, adm := .reset,
                port := { CameraPort.reset .off s.cams[i].port.lineValid with
                          state := if s.camEnabled i then .dark else .off } })
        ∧ t.seg = { s.seg with lines := [], control := [] }
        ∧ t.ease = { EaseUnit.reset with windowTimer := s.ease.windowTimer }
        ∧ t.take = { s.take with
              contexts := Vector.replicate 32 none, free := List.finRange 512, queue := [] }
        ∧ t.dlv = { s.dlv with active := false, position := 0 }
        ∧ t.store = { s.store with readStart := some s.time, imageRead := 0 }
        ∧ t.svc = { s.svc with command := commandWord 10 arg, reply := statusReply t .ok }
        ∧ (t.svc.reply.extractLsb' 10 3).toNat = 0)

/-- CLEAR (R177): the station counters become 0, and everything else stays, the counters of the cameras among it. -/
def Obligations.ClearZeroesTheStationCounters : Prop :=
  ∀ (arg : BitVec 12) (s : State),
    exec (.clear arg) s = .next { s with
      ring := { s.ring with crcFaults := 0, unknownKinds := 0, orphans := 0, transitOverruns := 0, partialDrops := 0 },
      strip := { s.strip with encoderErrors := 0, underrunClamps := 0, indexPulses := 0, sourceSwitches := 0 },
      seam := { s.seam with bounces := 0, captureOverflows := 0, unplaced := 0, placed := 0, merged := 0, lost := 0 },
      seg := { s.seg with marksDropped := 0 }, ease := { s.ease with easesSent := 0 },
      take := { s.take with linesTaken := 0, noContext := 0, orphanSegments := 0, brokenLines := 0, storeFull := 0,
                            deliveryOverflow := 0 },
      dlv := { s.dlv with takesIgnored := 0, recordsCut := 0 },
      svc := { s.svc with command := commandWord 9 arg, reply := statusReply s .ok } }

/-! ### The service line -/

/-- What a frame brings (R171) and what the commands of the service line reply (R172, R173). The first 16 bits of a frame are its
command word, code and argument; fewer make no command; SV_OUT is the reply register, most significant bit first, low past the
sixteenth edge and while SV_SEL is high; a command word stands in the command register after its command; the event of a frame joins the
queue, and the step that reaches it takes it; a word of 16 bits spells its command, which the next step runs, and of any other number
of bits none (the strap pins at 0 and no open parcel of a RESTART so spelt are the model's choice, log 22). ITEM captures the item named
by the low six bits of its argument at the index in its high six bits, which becomes pending, and replies with its low half; a NOP with
the hold pending, and HIGH always, reply with the high half and clear pending; a NOP with it not pending gives a status reply. An unknown command has no effect but its reply,
an incomplete frame leaves the reply register, and the fields of a status reply lie where Section 12.3 puts them. -/
def Obligations.ServiceReplies : Prop :=
  (∀ (arg : BitVec 12) (s : State),
    exec (.nop arg) s = .next { s with svc := { s.svc with
        command := commandWord 0 arg, holdPending := false,
        reply := if s.svc.holdPending then BitVec.ofNat 16 (s.svc.hold.toNat / 2 ^ 16) else statusReply s .ok } }
    ∧ exec (.high arg) s = .next { s with svc := { s.svc with
        command := commandWord 2 arg, holdPending := false, reply := BitVec.ofNat 16 (s.svc.hold.toNat / 2 ^ 16) } }
    ∧ exec (.item arg) s = .next { s with svc := { s.svc with
        command := commandWord 1 arg, holdPending := true, hold := serviceItem s (arg.toNat / 64) (arg.toNat % 64),
        reply := BitVec.ofNat 16 (serviceItem s (arg.toNat / 64) (arg.toNat % 64)).toNat } })
  ∧ (∀ (code : BitVec 4) (arg : BitVec 12) (s : State),
      exec (.unknownCommand code arg) s = .next { s with svc := { s.svc with
        command := commandWord code arg, reply := statusReply s .unknown } })
  ∧ (∀ (bits : List Bool) (s : State), ∃ t, exec (.incompleteFrame bits) s = .next t
      ∧ t = { s with svc := { s.svc with command := t.svc.command } }
      ∧ t.svc.command =
          bits.foldl (fun w b => BitVec.ofNat 16 (2 * w.toNat + b.toNat)) s.svc.command)
  ∧ (∀ (bits : List Bool) (straps : Station) (opened : OpenParcel),
      (bits.length < 16 → frameCommand bits straps opened = .incompleteFrame bits)
      ∧ (16 ≤ bits.length → ∃ w : Word16, frameCommand bits straps opened = commandOf w straps opened
          ∧ ∀ j : Fin 16, w.getLsbD (15 - j.val) = bits.getD j.val false))
  ∧ (∀ (arg : BitVec 12) (straps : Station) (opened : OpenParcel),
      commandOf (0#4 ++ arg) straps opened = .nop arg ∧ commandOf (1#4 ++ arg) straps opened = .item arg
      ∧ commandOf (2#4 ++ arg) straps opened = .high arg ∧ commandOf (3#4 ++ arg) straps opened = .roll arg
      ∧ commandOf (4#4 ++ arg) straps opened = .eeaddr arg ∧ commandOf (5#4 ++ arg) straps opened = .eelo arg
      ∧ commandOf (6#4 ++ arg) straps opened = .eehi arg ∧ commandOf (7#4 ++ arg) straps opened = .eewrite arg
      ∧ commandOf (8#4 ++ arg) straps opened = .eeread arg ∧ commandOf (9#4 ++ arg) straps opened = .clear arg
      ∧ commandOf (10#4 ++ arg) straps opened = .restart arg straps opened
      ∧ ∀ code : BitVec 4, 11 ≤ code.toNat → commandOf (code ++ arg) straps opened = .unknownCommand code arg)
  ∧ (∀ (w : Word16) (straps : Station) (opened : OpenParcel) (s : State),
      ∃ t, exec (commandOf w straps opened) s = .next t ∧ t.svc.command = w)
  ∧ (∀ (bits : List Bool) (straps : Station) (opened : OpenParcel) (s : State),
      (s.pending = [] → step (s.withFrame bits straps opened) = exec (frameCommand bits straps opened) s)
      ∧ (∀ c rest, s.pending = c :: rest → step (s.withFrame bits straps opened)
          = exec c { s with pending := rest ++ [frameCommand bits straps opened] }))
  ∧ (∀ (nbits w : Nat) (s : State),
      (nbits = 16 → w < 65536 → decodeTableWord nbits w = some (commandOf (BitVec.ofNat 16 w) 0 none)
        ∧ step (s.withFetchWord nbits w) = exec (commandOf (BitVec.ofNat 16 w) 0 none) s)
      ∧ (nbits ≠ 16 → decodeTableWord nbits w = none ∧ s.withFetchWord nbits w = s))
  ∧ [SvcResult.ok, .busy, .isProtected, .range, .unknown].map SvcResult.code = [0, 1, 2, 3, 4]
  ∧ (∀ (s : State) (n : Nat),
      svOut s false n = false ∧ (16 ≤ n → svOut s true n = false)
      ∧ (n < 16 → svOut s true n = s.svc.reply.getLsbD (15 - n)))
  ∧ (∀ (s : State) (r : SvcResult),
      ((statusReply s r).extractLsb' 13 3).toNat = r.code ∧ ((statusReply s r).extractLsb' 10 3).toNat = s.ctl.state.code
      ∧ (statusReply s r).getLsbD 9 = s.svc.write.isSome ∧ (statusReply s r).getLsbD 8 = s.svc.holdPending
      ∧ ((statusReply s r).extractLsb' 0 8).toNat = 0)

/-- The items (Tables 11.2 and 12.6), every one of 0 to 58: the single quantities, the two halves, the fields of the packed items, the
entries by their index, and 0 for a number above 58 or an index out of range; the codes of Table 12.4 and of the two sources; and 0 in
the bits that Table 12.6 does not list. Premises on a quantity say that it fits its field. The
model's choices (log 18): item 0 reads 0 with no identity, so do the low half of item 19, items 21 and 54 and the origin field of item 20
with no latest seam, the share half of item 44 with no share, the last sequence field of item 50 with none, the thin factor with no
settings, the fields of items 52 and 56 with nothing present, and a received code that does not fit its field of item 52 gives its low
bits. -/
def Obligations.ServiceItemValues : Prop :=
  ([LinkState.dark, .syncing, .up].map LinkState.code = [0, 1, 2]
    ∧ [EncoderState.none, .good, .fault].map EncoderState.code = [0, 1, 2]
    ∧ [RollCondition.absent, .present, .silent, .clash].map RollCondition.code = [0, 1, 2, 3]
    ∧ [BeaconCondition.empty, .fresh, .stale].map BeaconCondition.code = [0, 1, 2]
    ∧ [StationState.start, .passOnly, .joining, .running, .ringOpen, .duplicate].map StationState.code = [0, 1, 2, 3, 4, 5]
    ∧ [ClockState.loc, .none, .following, .coasting, .held].map ClockState.code = [0, 1, 2, 3, 4]
    ∧ [PortState.off, .dark, .sizing, .locked, .mismatch].map PortState.code = [0, 1, 2, 3, 4]
    ∧ PositionSource.code .none = 31 ∧ PositionSource.code .loc = 16 ∧ followedCode none = 31
    ∧ ∀ n : Station, PositionSource.code (.station n) = n.val ∧ followedCode (some n) = n.val)
  ∧ (∀ (s : State) (n : Station) (i : Cam) (x : Nat),
    (serviceItem s x 1).toNat < 2 ^ 26 ∧ (serviceItem s x 2).toNat < 2 ^ 7
    ∧ (LinesWithin s → s.seg.control.length ≤ 16 →
        (serviceItem s x 3).extractLsb' 19 5 = 0 ∧ (serviceItem s x 3).toNat < 2 ^ 29)
    ∧ (s.seam.list.length ≤ 8 → (serviceItem s x 20).extractLsb' 4 4 = 0 ∧ (serviceItem s x 20).toNat < 2 ^ 13)
    ∧ (s.take.free.length ≤ 512 → s.take.queue.length ≤ 128 → (serviceItem s x 32).toNat < 2 ^ 24)
    ∧ (serviceItem s n.val 42).extractLsb' 2 2 = 0 ∧ (serviceItem s n.val 42).extractLsb' 8 8 = 0
    ∧ (s.cams[i].trig.fifo.length ≤ 4 → s.cams[i].adm.phase < 16 → (∀ t, s.camSettings i = some t → t.thin ≤ 16) →
        (serviceItem s i.val 45).getLsbD 3 = false ∧ (serviceItem s i.val 45).getLsbD 7 = false
        ∧ (serviceItem s i.val 45).extractLsb' 13 3 = 0 ∧ (serviceItem s i.val 45).extractLsb' 20 4 = 0)
    ∧ (serviceItem s x 50).extractLsb' 3 5 = 0 ∧ (serviceItem s x 56).toNat < 2 ^ 8)
  ∧ ∀ (s : State) (x : Nat),
    serviceItem s x 0 = s.ctl.identity.getD 0
    ∧ serviceItem s x 4 = s.ring.crcFaults ∧ serviceItem s x 5 = s.ring.unknownKinds ∧ serviceItem s x 6 = s.ring.orphans
    ∧ serviceItem s x 7 = s.ring.transitOverruns ∧ serviceItem s x 8 = s.ring.partialDrops
    ∧ serviceItem s x 9 = s.strip.count ∧ serviceItem s x 10 = s.strip.x.setWidth 32
    ∧ serviceItem s x 11 = s.strip.xhat.setWidth 32
    ∧ serviceItem s x 12 = BitVec.ofNat 32 (s.strip.xhat.toNat / 2 ^ 32 * 2 ^ 16 + s.strip.x.toNat / 2 ^ 32)
    ∧ serviceItem s x 13 = s.strip.residue.setWidth 32 ∧ (serviceItem s x 14).toInt = s.strip.vs.toInt
    ∧ serviceItem s x 15 = s.strip.encoderErrors ∧ serviceItem s x 16 = s.strip.underrunClamps
    ∧ serviceItem s x 17 = s.strip.indexPulses ∧ serviceItem s x 18 = s.strip.sourceSwitches
    ∧ serviceItem s x 22 = s.seam.bounces ∧ serviceItem s x 23 = s.seam.captureOverflows
    ∧ serviceItem s x 24 = s.seam.unplaced ∧ serviceItem s x 25 = s.seam.placed ∧ serviceItem s x 26 = s.seam.merged
    ∧ serviceItem s x 27 = s.seam.lost ∧ serviceItem s x 28 = s.seg.marksDropped
    ∧ serviceItem s x 29 = s.ease.rate.setWidth 32 ∧ serviceItem s x 31 = s.ease.easesSent
    ∧ serviceItem s x 34 = s.take.linesTaken ∧ serviceItem s x 35 = s.take.noContext
    ∧ serviceItem s x 36 = s.take.orphanSegments ∧ serviceItem s x 37 = s.take.brokenLines
    ∧ serviceItem s x 38 = s.take.storeFull ∧ serviceItem s x 39 = s.take.deliveryOverflow
    ∧ serviceItem s x 40 = s.dlv.takesIgnored ∧ serviceItem s x 41 = s.dlv.recordsCut
    ∧ (∀ n : Station, serviceItem s n.val 43 = s.strip.table[n].coord.setWidth 32
        ∧ serviceItem s n.val 55 = BitVec.ofNat 32 (s.strip.table[n].coord.toNat / 2 ^ 32))
    ∧ (∀ i : Cam, serviceItem s i.val 47 = s.cams[i].trig.coil.setWidth 32 ∧ serviceItem s i.val 48 = s.cams[i].trig.current
        ∧ serviceItem s (i.val * 16) 49 = s.cams[i].port.serial ∧ serviceItem s (i.val * 16 + 1) 49 = s.cams[i].port.produced
        ∧ serviceItem s (i.val * 16 + 2) 49 = s.cams[i].adm.admitted ∧ serviceItem s (i.val * 16 + 3) 49 = s.cams[i].adm.thinned
        ∧ serviceItem s (i.val * 16 + 4) 49 = s.cams[i].adm.refused ∧ serviceItem s (i.val * 16 + 5) 49 = s.cams[i].trig.issued
        ∧ serviceItem s (i.val * 16 + 6) 49 = s.cams[i].trig.overspeed
        ∧ serviceItem s (i.val * 16 + 7) 49 = s.cams[i].trig.suppressed
        ∧ serviceItem s (i.val * 16 + 8) 49 = s.cams[i].trig.skipped ∧ serviceItem s (i.val * 16 + 9) 49 = s.cams[i].trig.missing
        ∧ serviceItem s (i.val * 16 + 10) 49 = s.cams[i].trig.unsolicited)
    ∧ (((serviceItem s x 1).extractLsb' 0 4).toNat = s.ctl.number.val
        ∧ ((serviceItem s x 1).extractLsb' 4 3).toNat = s.ctl.state.code ∧ (serviceItem s x 1).getLsbD 7 = s.ctl.configValid
        ∧ ((serviceItem s x 1).extractLsb' 8 2).toNat = s.ring.link.code
        ∧ ((serviceItem s x 1).extractLsb' 10 3).toNat = s.strip.clock.code
        ∧ ((serviceItem s x 1).extractLsb' 13 2).toNat = s.strip.encoder.code
        ∧ ((serviceItem s x 1).extractLsb' 15 5).toNat = s.strip.source.code
        ∧ ((serviceItem s x 1).extractLsb' 20 5).toNat = followedCode s.strip.followed
        ∧ (serviceItem s x 1).getLsbD 25 = s.ease.originating)
    ∧ ((serviceItem s x 2).getLsbD 0 = s.store.faults.encoder ∧ (serviceItem s x 2).getLsbD 1 = s.store.faults.seamInput
        ∧ (serviceItem s x 2).getLsbD 2 = s.store.faults.takeOff
        ∧ (serviceItem s x 2).extractLsb' 3 4 = s.store.faults.cameras)
    ∧ (∀ (n : Station) (e : BeaconEntry), e = s.strip.table[n] →
        ((serviceItem s n.val 42).extractLsb' 0 2).toNat = e.condition.code
        ∧ (serviceItem s n.val 42).extractLsb' 4 4 = e.hopsUsed ∧ (serviceItem s n.val 42).extractLsb' 16 16 = e.sequence)
    ∧ (∀ e : RollEntry, e = s.svc.snapshot →
        ((serviceItem s x 50).extractLsb' 0 2).toNat = e.condition.code
        ∧ (serviceItem s x 50).getLsbD 2 = e.lastSequence.isSome ∧ (serviceItem s x 50).extractLsb' 8 8 = e.missed
        ∧ (serviceItem s x 50).extractLsb' 16 16 = e.lastSequence.getD 0)
    ∧ serviceItem s x 51 = s.svc.snapshot.identity.getD 0 ∧ serviceItem s x 53 = BitVec.ofNat 32 s.ease.bytes
    ∧ (LinesWithin s → s.seg.control.length ≤ 16 →
        ((serviceItem s x 3).extractLsb' 0 19).toNat = lineOccupancy s.seg.lines
        ∧ ((serviceItem s x 3).extractLsb' 24 5).toNat = s.seg.control.length)
    ∧ (serviceItem s x 19).extractLsb' 16 16 = s.seam.highest
    ∧ (serviceItem s x 19).extractLsb' 0 16 = (s.seam.latest.map SeamRecord.coil).getD 0
    ∧ (s.seam.list.length ≤ 8 →
        ((serviceItem s x 20).extractLsb' 0 4).toNat = s.seam.list.length
        ∧ ((serviceItem s x 20).extractLsb' 8 4).toNat = (s.seam.latest.map (fun r => r.origin.val)).getD 0
        ∧ (serviceItem s x 20).getLsbD 12 = s.seam.latest.isSome)
    ∧ serviceItem s x 21 = ((s.seam.latest.map SeamRecord.coord).getD 0).setWidth 32
    ∧ serviceItem s x 54 = BitVec.ofNat 32 (((s.seam.latest.map SeamRecord.coord).getD 0).toNat / 2 ^ 32)
    ∧ ((∀ n : Station, s.ease.table[n].live = false) → serviceItem s x 30 = 0xFFFFFFFF)
    ∧ (∀ n : Station, s.ease.table[n].live = true →
        (∀ m : Station, s.ease.table[m].live = true → s.ease.table[n].share.toNat ≤ s.ease.table[m].share.toNat) →
        (serviceItem s x 30).toNat = s.ease.table[n].share.toNat * 16)
    ∧ (s.take.free.length ≤ 512 → s.take.queue.length ≤ 128 →
        ((serviceItem s x 32).extractLsb' 0 10).toNat = s.take.free.length
        ∧ ((serviceItem s x 32).extractLsb' 10 6).toNat = (s.take.contexts.toList.filter Option.isSome).length
        ∧ ((serviceItem s x 32).extractLsb' 16 8).toNat = s.take.queue.length)
    ∧ (s.dlv.position < 65536 → ((serviceItem s x 33).extractLsb' 16 16).toNat = s.dlv.position)
    ∧ (s.take.queue = [] → ((serviceItem s x 33).extractLsb' 0 16).toNat = 0)
    ∧ (∀ r rest, s.take.queue = r :: rest → wordCount r < 65536 →
        ((serviceItem s x 33).extractLsb' 0 16).toNat = wordCount r)
    ∧ (∀ (n : Station) (e : EaseEntry), e = s.ease.table[n] →
        (serviceItem s n.val 44).extractLsb' 16 16 = e.share
        ∧ (e.live = false → ((serviceItem s n.val 44).extractLsb' 0 16).toNat = 0)
        ∧ (e.live = true → (e.expiry - s.time).toNat ≤ 10000 →
            ((serviceItem s n.val 44).extractLsb' 0 16).toNat = (e.expiry - s.time).toNat))
    ∧ (∀ (i : Cam) (c : Camera), c = s.cams[i] → c.trig.fifo.length ≤ 4 → c.adm.phase < 16 →
        (∀ t, s.camSettings i = some t → t.thin ≤ 16) →
        ((serviceItem s i.val 45).extractLsb' 0 3).toNat = c.port.state.code
        ∧ ((serviceItem s i.val 45).extractLsb' 4 3).toNat = c.trig.fifo.length
        ∧ ((serviceItem s i.val 45).extractLsb' 8 5).toNat = ((s.camSettings i).map CameraSettings.thin).getD 0
        ∧ ((serviceItem s i.val 45).extractLsb' 16 4).toNat = c.adm.phase
        ∧ (serviceItem s i.val 45).extractLsb' 24 8 = c.adm.thinnedSince)
    ∧ (∀ i : Cam, s.cams[i].port.lastLength < 65536 → s.cams[i].port.locked.getD 0 < 65536 →
        ((serviceItem s i.val 46).extractLsb' 16 16).toNat = s.cams[i].port.lastLength
        ∧ ((serviceItem s i.val 46).extractLsb' 0 16).toNat = s.cams[i].port.locked.getD 0)
    ∧ (s.svc.snapshot.contents = none → serviceItem s x 52 = 0 ∧ serviceItem s x 57 = 0 ∧ serviceItem s x 58 = 0)
    ∧ (∀ c : StatusContents, s.svc.snapshot.contents = some c →
        (serviceItem s x 52).extractLsb' 0 3 = c.stationState.extractLsb' 0 3
        ∧ (serviceItem s x 52).extractLsb' 3 3 = c.clockState.extractLsb' 0 3
        ∧ (serviceItem s x 52).extractLsb' 6 5 = (if c.followed = 0xFF then 31#5 else c.followed.extractLsb' 0 5)
        ∧ (∀ i : Cam, (serviceItem s x 52).extractLsb' (3 * i.val + 11) 3 = c.portStates.extractLsb' (4 * i.val) 3)
        ∧ (serviceItem s x 52).extractLsb' 23 7 = c.queueFill.extractLsb' 0 7
        ∧ (serviceItem s x 52).getLsbD 30 = c.easeOriginating.getLsbD 0 ∧ (serviceItem s x 52).getLsbD 31 = true
        ∧ serviceItem s x 57 = c.crcFaults ++ c.linesRefused ∧ serviceItem s x 58 = c.linesMissing ++ c.brokenLines)
    ∧ (s.svc.snapshot.functions = none → serviceItem s x 56 = 0)
    ∧ (∀ f : Functions, s.svc.snapshot.functions = some f →
        (serviceItem s x 56).extractLsb' 0 4 = f.cameras ∧ (serviceItem s x 56).getLsbD 4 = f.encoder
        ∧ (serviceItem s x 56).getLsbD 5 = f.seamInput ∧ (serviceItem s x 56).getLsbD 6 = f.takeOff
        ∧ (serviceItem s x 56).getLsbD 7 = true)
    ∧ (16 ≤ x → serviceItem s x 42 = 0 ∧ serviceItem s x 43 = 0 ∧ serviceItem s x 44 = 0 ∧ serviceItem s x 55 = 0)
    ∧ (4 ≤ x → serviceItem s x 45 = 0 ∧ serviceItem s x 46 = 0 ∧ serviceItem s x 47 = 0 ∧ serviceItem s x 48 = 0)
    ∧ (64 ≤ x ∨ 10 < x % 16 → serviceItem s x 49 = 0)
    ∧ (∀ number, 58 < number → serviceItem s x number = 0)

/-- R174: ROLL copies the roll entry whole into the snapshot, refuses an argument above 15 with RANGE, and no other command but
a power-on reset, which empties it, changes the snapshot; items 50 to 52 and 56 to 58 read the snapshot alone. -/
def Obligations.RollSnapshot : Prop :=
  (∀ (n : Station) (arg : BitVec 12) (s : State), arg.toNat = n.val →
      exec (.roll arg) s = .next { s with svc := { s.svc with
        command := commandWord 3 arg, snapshot := s.ctl.roll[n], reply := statusReply s .ok } })
  ∧ (∀ (arg : BitVec 12) (s : State), 15 < arg.toNat →
      exec (.roll arg) s = .next { s with svc := { s.svc with
        command := commandWord 3 arg, reply := statusReply s .range } })
  ∧ (∀ (c : Instr) (s t : State), (∀ arg, c ≠ .roll arg) → (∀ straps a b, c ≠ .powerOnReset straps a b) →
      exec c s = .next t → t.svc.snapshot = s.svc.snapshot)
  ∧ (∀ (straps : Station) (a b : Bool) (s t : State), exec (.powerOnReset straps a b) s = .next t → t.svc.snapshot = .blank)
  ∧ (∀ (s t : State) (x : Nat), s.svc.snapshot = t.svc.snapshot →
      ∀ k ∈ [50, 51, 52, 56, 57, 58], serviceItem s x k = serviceItem t x k)

/-- The EEPROM commands and the completion of a write (R175). That a write completes whenever the completion is commanded is the
model's choice (log 2). -/
def Obligations.EepromCommands : Prop :=
  (∀ (j : Fin 128) (arg : BitVec 12) (s : State), arg.toNat = j.val →
      exec (.eeaddr arg) s = .next { s with svc := { s.svc with
        command := commandWord 4 arg, address := j, reply := statusReply s .ok } })
  ∧ (∀ (arg : BitVec 12) (s : State), 127 < arg.toNat →
      exec (.eeaddr arg) s = .next { s with svc := { s.svc with
        command := commandWord 4 arg, reply := statusReply s .range } })
  ∧ (∀ (arg : BitVec 12) (s : State),
      exec (.eelo arg) s = .next { s with svc := { s.svc with
        command := commandWord 5 arg, reply := statusReply s .ok,
        latch := BitVec.ofNat 16 (s.svc.latch.toNat / 256 * 256 + arg.toNat % 256) } })
  ∧ (∀ (arg : BitVec 12) (s : State),
      exec (.eehi arg) s = .next { s with svc := { s.svc with
        command := commandWord 6 arg, reply := statusReply s .ok,
        latch := BitVec.ofNat 16 (arg.toNat % 256 * 256 + s.svc.latch.toNat % 256) } })
  ∧ (∀ (arg : BitVec 12) (s : State), s.svc.write.isSome = true ∨ s.store.readStart.isSome = true →
      exec (.eewrite arg) s = .next { s with svc := { s.svc with
        command := commandWord 7 arg, reply := statusReply s .busy } })
  ∧ (∀ (arg : BitVec 12) (s : State), s.svc.write = none → s.store.readStart = none →
      s.svc.address = 2 ∨ s.svc.address = 3 →
      exec (.eewrite arg) s = .next { s with svc := { s.svc with
        command := commandWord 7 arg, reply := statusReply s .isProtected } })
  ∧ (∀ (arg : BitVec 12) (s : State), s.svc.write = none → s.store.readStart = none → s.svc.address ≠ 2 → s.svc.address ≠ 3 →
      ∃ t, exec (.eewrite arg) s = .next t
        ∧ t = { s with svc := { s.svc with
            command := commandWord 7 arg, reply := statusReply t .ok,
            write := some { address := s.svc.address, value := s.svc.latch, began := s.time } } }
        ∧ t.svc.reply.getLsbD 9 = true)
  ∧ (∀ (arg : BitVec 12) (s : State),
      exec (.eeread arg) s = .next { s with svc := { s.svc with
        command := commandWord 8 arg, reply := s.store.image[s.svc.address] } })
  ∧ (∀ (w : EepromWrite) (s : State), s.svc.write = some w → ∃ t, exec .eepromWriteCompletion s = .next t
      ∧ t = { s with svc := { s.svc with write := none },
                     store := { s.store with eeprom := t.store.eeprom, image := t.store.image } }
      ∧ t.store.eeprom[w.address] = w.value ∧ t.store.image[w.address] = w.value
      ∧ (∀ j : Fin 128, j ≠ w.address → t.store.eeprom[j] = s.store.eeprom[j] ∧ t.store.image[j] = s.store.image[j]))
  ∧ (∀ s : State, s.svc.write = none → exec .eepromWriteCompletion s = .next s)

/-! ### The link and arrivals -/

/-- LIGHT_AND_LOCK brings a DARK link to SYNCING; LOSS_OF_LIGHT_OR_LOCK brings any other to DARK, drops an open parcel, and
opens the ring for a station in JOINING or RUNNING (R1, R3, R25). That the idle run count stands in DARK is the model's choice
(log 15). -/
def Obligations.LightAndLockOfTheLink : Prop :=
  ∀ s : State,
    exec .lightAndLock s = .next { s with ring :=
        if s.ring.link = .dark then { s.ring with lightAndLock := true, link := .syncing, idleRun := 0 }
        else { s.ring with lightAndLock := true } }
    ∧ ∀ opened : OpenParcel, exec (.lossOfLightOrLock opened) s = .next { s with
        ring := { s.ring with
          lightAndLock := false, link := .dark,
          reception := if s.ring.link = .dark then s.ring.reception else none,
          partialDrops :=
            if s.ring.link = .up ∧ (s.ring.reception.isSome = true ∨ opened.isSome = true)
            then satInc s.ring.partialDrops else s.ring.partialDrops },
        ctl :=
          if s.ring.link = .dark then s.ctl
          else if s.ctl.state = .joining ∨ s.ctl.state = .running then
            { s.ctl with state := .ringOpen, signonTimer := none }
          else if s.ctl.state = .passOnly then { s.ctl with signonTimer := none }
          else s.ctl }

/-- The characters of SYNCING (R1, R25): 64 consecutive idles bring the link to UP, at which a station in JOINING or PASS_ONLY
requests a SIGNON and starts its timer; another character starts the count again. In UP a parcel cut short is counted (R3). That an idle
`syncingCharacter` with 63 before it does what `inboundUp` does is the model's choice (log 15). -/
def Obligations.LinkCharacters : Prop :=
  (∀ (c : CharClass) (s : State), s.ring.link ≠ .syncing →
      exec (.syncingCharacter c) s = .next s ∧ exec .inboundUp s = .next s)
  ∧ (∀ (c : CharClass) (s : State), s.ring.link = .syncing → c ≠ .idle →
      exec (.syncingCharacter c) s = .next { s with ring := { s.ring with idleRun := 0 } })
  ∧ (∀ s : State, s.ring.link = .syncing → s.ring.idleRun < 63 →
      exec (.syncingCharacter .idle) s = .next { s with ring := { s.ring with idleRun := s.ring.idleRun + 1 } }
      ∧ exec .inboundUp s = .next s)
  ∧ (∀ s : State, s.ring.link = .syncing → s.ring.idleRun = 63 →
      exec (.syncingCharacter .idle) s = exec .inboundUp s
      ∧ (s.ctl.state ≠ .joining → s.ctl.state ≠ .passOnly →
          exec .inboundUp s = .next { s with ring := { s.ring with link := .up, idleRun := 64 } })
      ∧ (s.ctl.state = .joining ∨ s.ctl.state = .passOnly →
          exec .inboundUp s = .next (placeRequest (.signon (s.ctl.identity.getD 0) (ownFunctions s))
            { s with ring := { s.ring with link := .up, idleRun := 64 },
                     ctl := { s.ctl with signonTimer := some s.time } })))
  ∧ (∀ (chars : List Byte) (cause : DropCause) (s : State),
      exec (.partialDrop chars cause) s = .next (if s.ring.link = .up then
        { s with ring := { s.ring with
            partialDrops := satInc s.ring.partialDrops,
            reception := if cause = .startDelimiter then some { bytes := [], count := 0 } else none } }
        else s))

/-- R4 and R5: a parcel that is not sound is discarded and counted in CRC_FAULTS, one of unknown kind or of a size that does not
match its kind in UNKNOWN_KINDS, in every station state, and nothing else changes. -/
def Obligations.UnsoundAndUnknownParcels : Prop :=
  (∀ v : Reception, sound v = true ↔
    11 ≤ v.count ∧ v.count ≤ 2080 ∧ v.count = 7 + lengthField v.bytes + 4 ∧ byteAt v.bytes 6 = 7
    ∧ field v.bytes (v.count - 4) 4 32 = crc32 (v.bytes.take (v.count - 4)))
  ∧ (∀ (k : Kind) (n : Nat), k.sizeOk n = true ↔
    (k = .line ∧ 33 ≤ n ∧ n ≤ 2080) ∨ (k = .status ∧ n = 128) ∨ (k ≠ .line ∧ k ≠ .status ∧ n = 64))
  ∧ (∀ chars : List Byte, receiveRun (some { bytes := [], count := 0 }) chars = receiveRun none chars)
  ∧ (∀ (chars : List Byte) (s : State), s.ring.link = .up →
    ¬ (11 ≤ (receiveRun s.ring.reception chars).count ∧ (receiveRun s.ring.reception chars).count ≤ 2080
        ∧ (receiveRun s.ring.reception chars).count = 7 + lengthField (receiveRun s.ring.reception chars).bytes + 4
        ∧ byteAt (receiveRun s.ring.reception chars).bytes 6 = 7
        ∧ field (receiveRun s.ring.reception chars).bytes ((receiveRun s.ring.reception chars).count - 4) 4 32
            = crc32 ((receiveRun s.ring.reception chars).bytes.take ((receiveRun s.ring.reception chars).count - 4))) →
    exec (.parcelArrival chars) s =
      .next { s with ring := { s.ring with reception := none, crcFaults := satInc s.ring.crcFaults } })
  ∧ (∀ (chars : List Byte) (s : State), s.ring.link = .up → sound (receiveRun s.ring.reception chars) = true →
    (∀ k, kindField (receiveRun s.ring.reception chars).bytes = some k →
      (k = .line ∧ ¬ (33 ≤ (receiveRun s.ring.reception chars).count ∧ (receiveRun s.ring.reception chars).count ≤ 2080))
      ∨ (k = .status ∧ (receiveRun s.ring.reception chars).count ≠ 128)
      ∨ (k ≠ .line ∧ k ≠ .status ∧ (receiveRun s.ring.reception chars).count ≠ 64)) →
    exec (.parcelArrival chars) s =
      .next { s with ring := { s.ring with reception := none, unknownKinds := satInc s.ring.unknownKinds } })
  ∧ (∀ chars : List Byte, receiveRun none chars = { bytes := chars.take 2080, count := chars.length })
  ∧ (∀ (s : State) (h : OwnHeader), (ownStatus s h).crcFaults = BitVec.ofNat 16 s.ring.crcFaults.toNat)
  ∧ (∀ c : Word32, (satInc c).toNat = min (c.toNat + 1) 0xFFFFFFFF)

/-- A returning own parcel is stripped: a BEACON, MARK or EASE has no effect, a SIGNON or STATUS acts on station control
(R26, R27), a LINE goes to the take-off unit (R7). A peer parcel with hops-left 0 is discarded and counted (R8). -/
def Obligations.OwnParcelsAndOrphans : Prop :=
  ∀ (chars p : List Byte) (k : Kind) (s : State), Brings s chars k p →
    (OwnParcel s p →
      (k = .beacon ∨ k = .mark ∨ k = .ease → exec (.parcelArrival chars) s = .next (received s))
      ∧ (k = .line → exec (.parcelArrival chars) s =
          .next { received s with take := (lineOffer p (received s)).take })
      ∧ (k = .signon ∨ k = .status → ∃ l, exec (.parcelArrival chars) s = .next { received s with
          ctl := { s.ctl with
            pendingReturn := l,
            state := if s.ctl.state = .joining ∨ s.ctl.state = .ringOpen then .running else s.ctl.state,
            signonTimer := if s.ctl.state = .joining then none else s.ctl.signonTimer } }
          ∧ (k = .signon ∨ s.ctl.state = .start → l = s.ctl.pendingReturn)
          ∧ (k = .status → s.ctl.state ≠ .start →
              ((∀ r ∈ s.ctl.pendingReturn, r.sequence ≠ field p 11 2 16) → l = s.ctl.pendingReturn)
              ∧ (∀ before r after, s.ctl.pendingReturn = before ++ r :: after → r.sequence = field p 11 2 16 →
                  (∀ q ∈ before, q.sequence ≠ field p 11 2 16) → l = after))))
    ∧ (¬ OwnParcel s p → hopsField p = 0 →
        exec (.parcelArrival chars) s =
          .next { s with ring := { s.ring with reception := none, orphans := satInc s.ring.orphans } })

/-- A peer parcel is offered to the consumer of its kind and then joins the transit buffer with hops-left one less, and a BEACON
with its age increased by the inbound link delay; one that does not fit is counted (R9 to R11). A LINE is offered to the take-off unit,
a MARK to the seam unit, and a BEACON, with its age increased, to the strip position unit and the seam unit, in the order that is the
model's choice (log 26). -/
def Obligations.PeerParcelsAreForwarded : Prop :=
  (∀ (p : List Byte) (s : State),
    offerPeer .line p s = lineOffer p s ∧ offerPeer .mark p s = markOffer p s
    ∧ (19 ≤ p.length → ∃ a : List Byte, offerPeer .beacon p s = latestSeamOffer a (beaconOffer a s)
        ∧ a.length = p.length ∧ (ageField a).toNat = min ((ageField p).toNat + s.ring.linkDelay.toNat) 16777215
        ∧ ∀ i, ¬ (16 ≤ i ∧ i ≤ 18) → byteAt a i = byteAt p i))
  ∧ ∀ (chars p : List Byte) (k : Kind) (s : State), ReceptionFresh s → Brings s chars k p → ¬ OwnParcel s p → hopsField p ≠ 0 →
    ∃ c : List Byte,
      (c.length = p.length ∧ hopsField c = hopsField p - 1 ∧ sourceField c = sourceField p
        ∧ (k = .beacon → (ageField c).toNat = min ((ageField p).toNat + s.ring.linkDelay.toNat) 16777215)
        ∧ ∀ i, i ≠ 1 → ¬ (k = .beacon ∧ 16 ≤ i ∧ i ≤ 18) → byteAt c i = byteAt p i)
      ∧ exec (.parcelArrival chars) s = .next (forward c (offerPeer k p (received s)))
      ∧ ∀ t : State,
          (transitOccupancy t.ring.transit + (c.length + 4) ≤ 16384 → forward c t =
            freeWhileIdle { t with ring := { t.ring with
              transit := t.ring.transit ++ [{ content := c, arrival := t.time }] } })
          ∧ (16384 < transitOccupancy t.ring.transit + (c.length + 4) → forward c t =
            { t with ring := { t.ring with transitOverruns := satInc t.ring.transitOverruns } })

/-- A peer SIGNON or STATUS acts on the entry of its source, after the identity change of R35 (R34 to R36): `e` is the entry as
that change leaves it. That a STATUS records the identity of an entry that holds none is the model's reading (log 32). -/
def Obligations.PeerSignonAndStatusWriteTheRoll : Prop :=
  ∀ (p : List Byte) (s : State) (e : RollEntry), sourceField p ≠ s.ctl.number → s.ctl.state ≠ .start →
    e = (match s.ctl.roll[sourceField p].identity with
      | some old =>
        if old = identityField p then s.ctl.roll[sourceField p]
        else { s.ctl.roll[sourceField p] with
                condition := .clash, identity := some (identityField p), identityChange := s.time, lastSequence := none,
                missed := 0, functions := none }
      | none => s.ctl.roll[sourceField p]) →
    offerPeer .signon p s = { s with ctl := { s.ctl with
      roll := put s.ctl.roll (sourceField p)
        (if e.condition = .absent then
          { e with condition := .present, identity := some (identityField p), receipt := s.time,
                   functions := some (functionsField p) }
        else { e with functions := some (functionsField p) }) } }
    ∧ offerPeer .status p s = { s with ctl := { s.ctl with
      roll := put s.ctl.roll (sourceField p)
        { e with
          condition := if e.condition = .clash then .clash else .present,
          identity := some (identityField p), lastSequence := some (field p 11 2 16), receipt := s.time,
          contents := some (statusField p),
          missed := match e.lastSequence with
            | some l => BitVec.ofNat 8
                (min 255 (e.missed.toNat + ((field p 11 2 16).toNat + 131072 - l.toNat - 1) % 65536))
            | none => e.missed } } }

/-- A SIGNON or STATUS of the own number with another identity puts the station in DUPLICATE and the own entry in CLASH; in START,
or with the own identity, it is ignored (R28, R35, R137). -/
def Obligations.DuplicateNumberIsSeen : Prop :=
  ∀ (p : List Byte) (k : Kind) (s : State), k = .signon ∨ k = .status → sourceField p = s.ctl.number →
    (s.ctl.state = .start ∨ some (identityField p) = s.ctl.identity → offerPeer k p s = s)
    ∧ (s.ctl.state = .duplicate → some (identityField p) ≠ s.ctl.identity →
        offerPeer k p s = { s with ctl := { s.ctl with
          roll := put s.ctl.roll s.ctl.number
            { s.ctl.roll[s.ctl.number] with condition := .clash, identityChange := s.time } } })
    ∧ (s.ctl.state ≠ .start → s.ctl.state ≠ .duplicate → some (identityField p) ≠ s.ctl.identity →
        offerPeer k p s = { s with
          ctl := { s.ctl with
            state := .duplicate, signonTimer := none,
            roll := put s.ctl.roll s.ctl.number
              { s.ctl.roll[s.ctl.number] with condition := .clash, identityChange := s.time } },
          ease := { s.ease with originating := false, phase := false },
          strip := { s.strip with beaconTimer := none } })

/-- A BEACON offer is entered when the entry is empty or the sequence is newer, and starts or feeds the following
(R53, R54, R57, R58, R61). -/
def Obligations.BeaconOffersFillTheTable : Prop :=
  ∀ (p : List Byte) (n : Station) (s : State), n = sourceField p →
    (s.ctl.state = .start ∨ s.ctl.state = .passOnly ∨ n = s.ctl.number
        ∨ (s.strip.table[n].condition ≠ .empty
            ∧ ¬ (1 ≤ (beaconSeq p - s.strip.table[n].sequence).toNat
                ∧ (beaconSeq p - s.strip.table[n].sequence).toNat ≤ 32767)) →
      beaconOffer p s = s)
    ∧ (s.ctl.state ≠ .start → s.ctl.state ≠ .passOnly → n ≠ s.ctl.number →
        s.strip.table[n].condition = .empty
          ∨ (1 ≤ (beaconSeq p - s.strip.table[n].sequence).toNat
              ∧ (beaconSeq p - s.strip.table[n].sequence).toNat ≤ 32767) →
        ∀ e : BeaconEntry,
          e = { condition := .fresh, coord := beaconCoord p, speed := beaconSpeed p, age := ageField p, receipt := s.time,
                hopsUsed := BitVec.ofNat 4 (15 - hopsField p), sequence := beaconSeq p } →
        (s.strip.clock = .loc ∨ (s.strip.clock = .following ∧ s.strip.followed ≠ some n) →
          beaconOffer p s = { s with strip := { s.strip with table := put s.strip.table n e } })
        ∧ (s.strip.clock = .following ∧ s.strip.followed = some n →
          beaconOffer p s = { s with strip := { s.strip with table := put s.strip.table n e, vs := e.speed } })
        ∧ (s.strip.clock = .none ∨ s.strip.clock = .coasting ∨ s.strip.clock = .held →
          beaconOffer p s =
            if s.strip.source = .none ∨ s.strip.source = .station n then
              { s with strip := { s.strip with
                  table := put s.strip.table n e, vs := e.speed, clock := .following, followed := some n,
                  source := .station n } }
            else
              { s with
                strip := { s.strip with
                  table := put s.strip.table n e, vs := e.speed, clock := .following, followed := some n,
                  source := .station n, sourceSwitches := satInc s.strip.sourceSwitches },
                cams := each (fun c => { c with trig := { c.trig with sourceChange := true } }) s.cams }))

/-- MARKs and latest-seam records are offered to the seam list in the running states, and the list takes a record as R77 and R78
state (R75 to R80). -/
def Obligations.SeamRecordsAreTaken : Prop :=
  (∀ (p : List Byte) (s : State),
      (s.ctl.state = .start ∨ s.ctl.state = .passOnly → markOffer p s = s ∧ latestSeamOffer p s = s)
      ∧ (s.ctl.state ≠ .start → s.ctl.state ≠ .passOnly →
          markOffer p s = offerSeam { coord := markCoord p, coil := markCoil p, origin := sourceField p } s
          ∧ latestSeamOffer p s = if s.seam.highest.toNat < (beaconCoil p).toNat then
              offerSeam { coord := beaconSeam p, coil := beaconCoil p, origin := sourceField p } s else s))
  ∧ (∀ (r : SeamRecord) (s : State),
      ((∃ e ∈ s.seam.list, ((e.coord.toNat : Int) - r.coord.toNat).natAbs ≤ 2000) →
          offerSeam r s = { s with seam := { s.seam with merged := satInc s.seam.merged } })
      ∧ ((∀ e ∈ s.seam.list, 2000 < ((e.coord.toNat : Int) - r.coord.toNat).natAbs) → 8 ≤ s.seam.list.length →
          offerSeam r s = { s with seam := { s.seam with lost := satInc s.seam.lost } })
      ∧ ((∀ e ∈ s.seam.list, 2000 < ((e.coord.toNat : Int) - r.coord.toNat).natAbs) → s.seam.list.length < 8 →
          SeamListOrdered s →
          ∃ (e : SeamEntry) (before after : List SeamEntry), s.seam.list = before ++ after
            ∧ (∀ x ∈ before, x.coord.toNat < r.coord.toNat) ∧ (∀ x ∈ after, r.coord.toNat < x.coord.toNat)
            ∧ e.coord = r.coord ∧ e.coil = r.coil ∧ e.origin = r.origin
            ∧ (∀ i : Cam, e.passed.getLsbD i.val
                = (s.camEnabled i && decide (r.coord.toNat ≤ s.cams[i].trig.origin.toNat)))
            ∧ offerSeam r s = { s with seam := { s.seam with
                list :=
                  if (∀ i : Cam, s.camEnabled i = false) ∧ r.coord.toNat ≤ s.strip.xhat.toNat
                      ∨ (∃ i : Cam, s.camEnabled i = true)
                        ∧ ∀ i : Cam, s.camEnabled i = true → e.passed.getLsbD i.val = true
                  then s.seam.list else before ++ e :: after,
                highest := if s.seam.highest.toNat ≤ r.coil.toNat then r.coil else s.seam.highest,
                latest := if s.seam.highest.toNat ≤ r.coil.toNat then some r else s.seam.latest } }))

/-- An EASE sets its entry's share, at least 64, and makes it live for 10,000 units; with the port busy, with no line waiting, or
without a change of the limiter to allowing, nothing else changes (R138, R141). An entry lapses at its expiry with its share kept
(R139). -/
def Obligations.EaseTableEntries : Prop :=
  (∀ (p : List Byte) (n : Station) (s : State), n = sourceField p →
      (s.ctl.state = .start ∨ s.ctl.state = .passOnly ∨ n = s.ctl.number → offerPeer .ease p s = s)
      ∧ (s.ctl.state ≠ .start → s.ctl.state ≠ .passOnly → n ≠ s.ctl.number →
          ∀ u : EaseUnit,
            u = { s.ease with
                  table := put s.ease.table n
                    { share := BitVec.ofNat 16 (max (easeShare p).toNat 64), expiry := s.time + 10000, live := true } } →
            (offerPeer .ease p s).ease.table = u.table
            ∧ (PortBusy s ∨ s.seg.lines = [] ∨ limiterAllows s.ease = true ∨ limiterAllows u = false →
                offerPeer .ease p s = { s with ease := u })
            ∧ (s.seg.lines ≠ [] → limiterAllows s.ease = false → limiterAllows u = true →
                offerPeer .ease p s = freeWhileIdle { s with ease := u })))
  ∧ (∀ (n : Station) (s : State),
      (s.ease.table[n].live = true ∧ 10000 ≤ (s.time - (s.ease.table[n].expiry - 10000)).toNat →
        ∀ u : EaseUnit, u = { s.ease with table := put s.ease.table n { s.ease.table[n] with live := false } } →
          ∃ t, exec (.easeEntryExpiry n) s = .next t ∧ t.ease.table = u.table
            ∧ (PortBusy s ∨ s.seg.lines = [] ∨ limiterAllows s.ease = true ∨ limiterAllows u = false →
                t = { s with ease := u })
            ∧ (s.seg.lines ≠ [] → limiterAllows s.ease = false → limiterAllows u = true →
                t = freeWhileIdle { s with ease := u }))
      ∧ (¬ (s.ease.table[n].live = true ∧ 10000 ≤ (s.time - (s.ease.table[n].expiry - 10000)).toNat) →
        exec (.easeEntryExpiry n) s = .next s))

/-! ### The take-off unit and the delivery port -/

/-- A consistent segment in order is placed (R149): its payload is copied to the block at the head of the free list and no other
byte of the line store changes; a context goes on, or its whole line becomes a record (R156, R157). The first segment of a line
opens the lowest FREE context for it (R148). -/
def Obligations.SegmentsArePlaced : Prop :=
  ∀ (p : List Byte) (g : Segment) (t : Settings) (hit : Fin 8) (k : Fin 32) (a : Assembly) (b : Block) (rest : List Block)
    (s : State),
    g = segmentOf p → s.store.settings = some t → t.takeOff = true → s.ctl.state.runs = true → g.camera ≤ 3 →
    filterHit t (streamOf g) = some hit → consistent g = true → OneContextPerStream s → s.take.free = b :: rest →
    ((s.take.contexts[k] = some a ∧ a.stream = streamOf g ∧ a.serial = g.serial ∧ a.next = g.index)
      ∨ ((∀ (j : Fin 32) (x : Assembly), s.take.contexts[j] = some x → x.stream ≠ streamOf g) ∧ g.index = 0 ∧ s.ctl.state ≠ .duplicate
          ∧ s.take.contexts[k] = none ∧ (∀ j : Fin 32, j < k → s.take.contexts[j] ≠ none)
          ∧ a = { stream := streamOf g, serial := g.serial, segCount := g.count, next := 0, coil := g.coil,
                  nominal := g.nominal, flags := g.flags, clips := g.clips, thinnedSince := g.thinnedSince, depth := g.depth,
                  pixels := 0, hit := hit, blocks := [], lastArrival := s.time })) →
    ∃ u : TakeOffUnit, lineOffer p s = { s with take := u }
      ∧ (∀ x, x < b.val * 2048 ∨ b.val * 2048 + g.payload.length ≤ x → u.store.read x = s.take.store.read x)
      ∧ (∀ (i : Nat) (h : i < g.payload.length), u.store.read (b.val * 2048 + i) = g.payload[i])
      ∧ (∀ j : Fin 32, j ≠ k → u.contexts[j] = s.take.contexts[j])
      ∧ ∀ a' : Assembly,
          a' = { a with blocks := a.blocks ++ [b], next := a.next + 1, pixels := a.pixels + g.pixels, lastArrival := s.time } →
          (a.next + 1 ≠ a.segCount →
            u = { s.take with store := u.store, contexts := u.contexts, free := rest } ∧ u.contexts[k] = some a')
          ∧ (a.next + 1 = a.segCount → u.contexts[k] = none
              ∧ (s.take.queue.length < 128 →
                  u = { s.take with store := u.store, contexts := u.contexts, free := rest,
                                    linesTaken := satInc s.take.linesTaken,
                                    queue := s.take.queue ++ [recordOf s.time false a'] })
              ∧ (128 ≤ s.take.queue.length →
                  u = { s.take with store := u.store, contexts := u.contexts, free := rest ++ (a.blocks ++ [b]),
                                    linesTaken := satInc s.take.linesTaken,
                                    deliveryOverflow := satInc s.take.deliveryOverflow }))

/-- A LINE offer that is not taken, that no filter matches, that is inconsistent, that finds no context to open or to join, or that
finds the line store full (R146 to R152, R154): what it counts, and which context it breaks; a segment 0 of another line is then taken as
with no context, and one that opens a context with the line store full leaves that context FREE. The stream is the source times four and
the camera, the filter hit the lowest-numbered filter that matches, and a segment is consistent when it meets every test of R147. -/
def Obligations.SegmentsNotPlaced : Prop :=
  (∀ g : Segment,
    (g.camera ≤ 3 → (streamOf g).toNat = g.source.val * 4 + g.camera)
    ∧ (consistent g = true ↔ g.camera ≤ 3 ∧ 1 ≤ g.count ∧ g.count ≤ 16 ∧ g.index < g.count
        ∧ ((g.depth = 8 ∧ g.payload.length = g.pixels) ∨ (g.depth = 16 ∧ g.payload.length = 2 * g.pixels))
        ∧ (g.index + 1 < g.count → g.payload.length = 2048)))
  ∧ (∀ (t : Settings) (x : BitVec 6) (hit : Fin 8) (matching : Fin 8 → Prop),
    (∀ j, matching j ↔ t.filters[j].enabled = true
      ∧ ∀ b : Fin 6, t.filters[j].mask.getLsbD b.val = true → x.getLsbD b.val = t.filters[j].value.getLsbD b.val) →
    (filterHit t x = some hit ↔ matching hit ∧ ∀ j, j < hit → ¬ matching j)
    ∧ (filterHit t x = none ↔ ∀ j, ¬ matching j))
  ∧ ∀ (p : List Byte) (g : Segment) (s : State), g = segmentOf p →
    (s.ctl.state.runs = false ∨ s.takeOffEnabled = false → lineOffer p s = s)
    ∧ ∀ t : Settings, s.store.settings = some t → t.takeOff = true → s.ctl.state.runs = true →
      (3 < g.camera → lineOffer p s = { s with take := { s.take with orphanSegments := satInc s.take.orphanSegments } })
      ∧ (g.camera ≤ 3 → (∀ i : Fin 8, t.filters[i].enabled = true →
            (streamOf g ^^^ t.filters[i].value) &&& t.filters[i].mask ≠ 0) → lineOffer p s = s)
      ∧ ∀ hit : Fin 8, g.camera ≤ 3 → filterHit t (streamOf g) = some hit →
        (consistent g = false →
          lineOffer p s = { s with take := { s.take with orphanSegments := satInc s.take.orphanSegments } })
        ∧ (consistent g = true → (∀ (j : Fin 32) (x : Assembly), s.take.contexts[j] = some x → x.stream ≠ streamOf g) →
            (g.index ≠ 0 →
              lineOffer p s = { s with take := { s.take with orphanSegments := satInc s.take.orphanSegments } })
            ∧ (g.index = 0 → (s.ctl.state = .duplicate ∨ ∀ j : Fin 32, s.take.contexts[j] ≠ none) →
              lineOffer p s = { s with take := { s.take with noContext := satInc s.take.noContext } })
            ∧ (g.index = 0 → s.ctl.state ≠ .duplicate → (∃ j : Fin 32, s.take.contexts[j] = none) → s.take.free = [] →
              lineOffer p s = { s with take := { s.take with
                storeFull := satInc s.take.storeFull, brokenLines := satInc s.take.brokenLines } }))
        ∧ (consistent g = true → OneContextPerStream s → ∀ (k : Fin 32) (a : Assembly), s.take.contexts[k] = some a →
            a.stream = streamOf g →
            (a.serial = g.serial → g.index ≠ a.next →
              lineOffer p s = { s with take := breakContext s.time t.deliverBroken k a s.take })
            ∧ (a.serial = g.serial → g.index = a.next → s.take.free = [] →
              lineOffer p s = { s with
                take := breakContext s.time t.deliverBroken k a { s.take with storeFull := satInc s.take.storeFull } })
            ∧ (a.serial ≠ g.serial → g.index ≠ 0 → lineOffer p s = { s with
                take := { breakContext s.time t.deliverBroken k a s.take with
                          orphanSegments := satInc s.take.orphanSegments } })
            ∧ (a.serial ≠ g.serial → g.index = 0 →
              lineOffer p s = lineOffer p { s with take := breakContext s.time t.deliverBroken k a s.take }))

/-- A broken line (R153, R154, R156, R157): the assembly timeout frees the context and, under DISCARD or with no segment held, its
blocks; under DELIVER the prefix joins the delivery queue with BROKEN, or its blocks are freed at a full queue. The record of a whole or a
broken line has the fields of Table 9.4 from its context. -/
def Obligations.LinesAreBroken : Prop :=
  (∀ (k : Fin 32) (a : Assembly) (t : Settings) (s : State), s.take.contexts[k] = some a → s.store.settings = some t →
      (s.ctl.state.runs = true → t.takeOff = true → 50000 ≤ (s.time - a.lastArrival).toNat →
        exec (.assemblyTimeout k) s = .next { s with take := breakContext s.time t.deliverBroken k a s.take })
      ∧ ((s.time - a.lastArrival).toNat < 50000 → exec (.assemblyTimeout k) s = .next s))
  ∧ (∀ (k : Fin 32) (s : State), s.take.contexts[k] = none ∨ s.ctl.state.runs = false ∨ s.takeOffEnabled = false →
      exec (.assemblyTimeout k) s = .next s)
  ∧ (∀ (now : Time) (k : Fin 32) (a : Assembly) (u : TakeOffUnit),
      breakContext now false k a u = { u with
          contexts := put u.contexts k none, brokenLines := satInc u.brokenLines, free := u.free ++ a.blocks }
      ∧ (a.next = 0 → breakContext now true k a u = { u with
          contexts := put u.contexts k none, brokenLines := satInc u.brokenLines, free := u.free ++ a.blocks })
      ∧ (1 ≤ a.next → u.queue.length < 128 → breakContext now true k a u = { u with
          contexts := put u.contexts k none, brokenLines := satInc u.brokenLines,
          queue := u.queue ++ [recordOf now true a] })
      ∧ (1 ≤ a.next → 128 ≤ u.queue.length → breakContext now true k a u = { u with
          contexts := put u.contexts k none, brokenLines := satInc u.brokenLines, free := u.free ++ a.blocks,
          deliveryOverflow := satInc u.deliveryOverflow })
      ∧ ∀ broken : Bool, recordOf now broken a = {
          stream := a.stream, hit := a.hit, flags := if broken = true then a.flags ||| 0x0100 else a.flags, present := a.next,
          segCount := a.segCount, serial := a.serial, coil := a.coil, nominal := a.nominal, depth := a.depth, pixels := a.pixels,
          clips := a.clips, thinnedSince := a.thinnedSince, completed := now, blocks := a.blocks })

/-- The delivery port (R163 to R168): a take with DLV_RDY high moves on or, at the last word, releases the head record; with it low
it is counted; a cut releases the head record wherever it stands; DLV_HOLD moves nothing else. -/
def Obligations.DeliveryPortRequests : Prop :=
  ∀ s : State,
    (s.dlv.active = false → exec .dlvTake s = .next s ∧ exec .dlvCut s = .next s)
    ∧ (s.dlv.active = true → s.take.queue = [] ∨ s.dlv.holdPin = true →
        exec .dlvTake s = .next { s with dlv := { s.dlv with takesIgnored := satInc s.dlv.takesIgnored } })
    ∧ (s.dlv.active = true → s.take.queue = [] → exec .dlvCut s = .next s)
    ∧ (∀ r rest, s.dlv.active = true → s.take.queue = r :: rest →
        (s.dlv.holdPin = false → s.dlv.position + 1 ≠ wordCount r →
          exec .dlvTake s = .next { s with dlv := { s.dlv with position := s.dlv.position + 1 } })
        ∧ (s.dlv.holdPin = false → s.dlv.position + 1 = wordCount r →
          exec .dlvTake s = .next { s with
            take := { s.take with queue := rest, free := s.take.free ++ r.blocks },
            dlv := { s.dlv with position := 0 } })
        ∧ exec .dlvCut s = .next { s with
            take := { s.take with queue := rest, free := s.take.free ++ r.blocks },
            dlv := { s.dlv with position := 0, recordsCut := satInc s.dlv.recordsCut } })
    ∧ ∀ level : Bool, exec (.dlvHold level) s = .next { s with dlv := { s.dlv with holdPin := level } }

/-- What the delivery port presents (Table 10.2, R164, Table 12.5): a record of N pixels has 4 and ceil of N over 8 or over 4 words,
each field of the header words and each pixel lies in its place, and the header bits that Table 12.5 does not list are 0. A pixel is
read from the record's blocks in the order of its block list, 2,048 bytes in a block, at depth 16 the more significant byte first. The
model's choices: that this holds for a record of segments of different depth or segment count too, whose bytes R164 does not place
(log 36), and that all sixteen bits of a pixel are delivered (log 37). -/
def Obligations.DeliveryPortWords : Prop :=
  (∀ s : State,
      (dlvReady s = true ↔ s.dlv.active = true ∧ s.take.queue ≠ [] ∧ s.dlv.holdPin = false)
      ∧ (s.dlv.active = false ∨ s.take.queue = [] → dlvData s = 0 ∧ dlvLast s = false)
      ∧ (∀ r rest, s.dlv.active = true → s.take.queue = r :: rest →
          dlvData s = recordWord s.take.store r s.dlv.position
          ∧ (dlvLast s = true ↔ s.dlv.position + 1 = wordCount r)))
  ∧ (∀ r : DeliveryRecord, (r.depth = 8 → wordCount r = 4 + (r.pixels + 7) / 8)
      ∧ (r.depth = 16 → wordCount r = 4 + (r.pixels + 3) / 4))
  ∧ (∀ (m : Memory) (r : DeliveryRecord), r.present ≤ 16 → r.segCount ≤ 16 → r.depth ≤ 16 → r.pixels ≤ 16384 →
      ((recordWord m r 0).extractLsb' 0 6) = r.stream ∧ ((recordWord m r 0).extractLsb' 8 3).toNat = r.hit.val
      ∧ (recordWord m r 0).extractLsb' 16 16 = r.flags ∧ ((recordWord m r 0).extractLsb' 32 5).toNat = r.present
      ∧ ((recordWord m r 0).extractLsb' 40 5).toNat = r.segCount
      ∧ (recordWord m r 1).extractLsb' 0 32 = r.serial ∧ (recordWord m r 1).extractLsb' 32 16 = r.coil
      ∧ ((recordWord m r 1).extractLsb' 48 8).toNat = r.depth
      ∧ (recordWord m r 2).extractLsb' 0 32 = r.nominal ∧ ((recordWord m r 2).extractLsb' 32 16).toNat = r.pixels
      ∧ (recordWord m r 2).extractLsb' 48 16 = r.clips
      ∧ (recordWord m r 3).extractLsb' 0 32 = r.completed ∧ (recordWord m r 3).extractLsb' 32 8 = r.thinnedSince
      ∧ (recordWord m r 0).extractLsb' 6 2 = 0 ∧ (recordWord m r 0).extractLsb' 11 5 = 0
      ∧ (recordWord m r 0).extractLsb' 37 3 = 0 ∧ (recordWord m r 0).extractLsb' 45 19 = 0
      ∧ (recordWord m r 1).extractLsb' 56 8 = 0 ∧ (recordWord m r 3).extractLsb' 40 24 = 0)
  ∧ (∀ (m : Memory) (r : DeliveryRecord) (n : Nat) (b : Block), r.depth = 8 → r.blocks[n / 2048]? = some b →
      recordPixel m r n = (m.read (b.val * 2048 + n % 2048)).toNat)
  ∧ (∀ (m : Memory) (r : DeliveryRecord) (n : Nat) (b : Block), r.depth = 16 → r.blocks[2 * n / 2048]? = some b →
      recordPixel m r n = (m.read (b.val * 2048 + 2 * n % 2048)).toNat * 256
        + (m.read (b.val * 2048 + 2 * n % 2048 + 1)).toNat)
  ∧ (∀ (m : Memory) (r : DeliveryRecord) (j : Nat) (l : Fin 8), r.depth = 8 →
      ((recordWord m r (4 + j)).extractLsb' (8 * l.val) 8).toNat
        = if 8 * j + l.val < r.pixels then recordPixel m r (8 * j + l.val) else 0)
  ∧ (∀ (m : Memory) (r : DeliveryRecord) (j : Nat) (l : Fin 4), r.depth = 16 →
      ((recordWord m r (4 + j)).extractLsb' (16 * l.val) 16).toNat
        = if 4 * j + l.val < r.pixels then recordPixel m r (4 * j + l.val) else 0)

/-! ### The outbound port and the control queue -/

/-- A SIGNON, STATUS, BEACON or EASE request replaces the queued parcel of its kind in its position, else joins at the tail
(R125); a MARK joins while fewer than twelve are queued, else is dropped and counted (R126). The parcel carries the own number and
key (R127). -/
def Obligations.ControlRequests : Prop :=
  (∀ (b : ControlBody) (p : ControlParcel) (s : State), p = { header := { source := s.ctl.number, key := s.originKey }, body := b } →
      (∀ before q after, s.seg.control = before ++ q :: after → q.body.kind = b.kind →
          (∀ x ∈ before, x.body.kind ≠ b.kind) →
          placeRequest b s = { s with seg := { s.seg with control := before ++ p :: after } })
      ∧ ((∀ x ∈ s.seg.control, x.body.kind ≠ b.kind) →
          placeRequest b s = freeWhileIdle { s with seg := { s.seg with control := s.seg.control ++ [p] } }))
  ∧ (∀ (coord : Coord) (coil : Word16) (s : State),
      (queuedOf .mark s < 12 →
        placeMark coord coil s = freeWhileIdle { s with seg := { s.seg with
          control := s.seg.control
            ++ [{ header := { source := s.ctl.number, key := s.originKey }, body := .mark coord coil }] } })
      ∧ (12 ≤ queuedOf .mark s →
        placeMark coord coil s = { s with seg := { s.seg with marksDropped := satInc s.seg.marksDropped } }))
  ∧ (∀ (id : Word32) (s : State), s.ctl.identity = some id → s.originKey = BitVec.ofNat 16 id.toNat)

/-- The scheduler's five choices in their order, as the station state limits them (R15, R16), and what the ease unit counts of each
(R132); a transit parcel leaves with a BEACON's age increased by its residence time and a new CRC (R13, R17). The limiter allows a line
while u is below sixteen times the share of every live ease entry, and without a live entry always (R140). PASS_ONLY allows SIGNON and
STATUS, DUPLICATE STATUS alone, JOINING, RUNNING and OPEN every kind, and START discards none. -/
def Obligations.SchedulerChoosesInOrder : Prop :=
  (∀ (now : Time) (e : TransitEntry),
    (kindField e.content ≠ some .beacon → departing now e = e.content)
    ∧ (kindField e.content = some .beacon → 19 ≤ e.content.length →
        (departing now e).length = e.content.length
        ∧ (ageField (departing now e)).toNat = min ((ageField e.content).toNat + (now - e.arrival).toNat) 16777215
        ∧ ∀ i, ¬ (16 ≤ i ∧ i ≤ 18) → byteAt (departing now e) i = byteAt e.content i))
  ∧ (∀ b : ControlBody,
    (controlAllowed .passOnly b = true ↔ b = .status ∨ ∃ id f, b = .signon id f)
    ∧ (controlAllowed .duplicate b = true ↔ b = .status) ∧ controlAllowed .joining b = true ∧ controlAllowed .running b = true
    ∧ controlAllowed .ringOpen b = true ∧ controlAllowed .start b = true)
  ∧ (∀ q : List TransitEntry, transitOccupancy q = (q.map (fun e => e.content.length + 4)).sum)
  ∧ (∀ e : EaseUnit, limiterAllows e = true ↔ ∀ n : Station, e.table[n].live = true → e.bytes < e.table[n].share.toNat * 16)
  ∧ ∀ (s : State) (kept : List ControlParcel) (counted : Bool → Nat → EaseUnit),
    kept = s.seg.control.dropWhile (fun p => !controlAllowed s.ctl.state p.body) →
    (∀ lost n, counted lost n =
      if s.seg.lines = [] then s.ease
      else { s.ease with waiting := s.ease.waiting + 1, blocked := s.ease.blocked + lost.toNat, bytes := s.ease.bytes + n }) →
    (∀ e rest, 8192 < transitOccupancy s.ring.transit → s.ring.transit = e :: rest →
      outboundFree s = { s with
        ease := counted true 0,
        ring := { s.ring with
          transit := rest, began := s.time,
          outbound := some { queue := .transit, bytes := withCrc (departing s.time e) } } })
    ∧ (transitOccupancy s.ring.transit ≤ 8192 →
        (∀ p rest, s.ctl.state ≠ .start → kept = p :: rest →
          outboundFree s = launchControl p { s with seg := { s.seg with control := rest }, ease := counted false 0 })
        ∧ (s.ctl.state = .start ∨ kept = [] →
            (∀ p rest, s.ctl.state = .joining ∨ s.ctl.state = .running ∨ s.ctl.state = .ringOpen →
              s.seg.lines = p :: rest → limiterAllows s.ease = true →
              outboundFree s = { s with
                ease := counted false (p.payload.length + 32), seg := { s.seg with control := kept, lines := rest },
                ring := { s.ring with
                  began := s.time, outbound := some { queue := .line, bytes := withCrc (lineBytes p) } } })
            ∧ (s.ctl.state = .start ∨ s.ctl.state = .passOnly ∨ s.ctl.state = .duplicate ∨ s.seg.lines = []
                  ∨ limiterAllows s.ease = false →
                (∀ e rest, s.ring.transit = e :: rest →
                  outboundFree s = { s with
                    ease := counted true 0, seg := { s.seg with control := kept },
                    ring := { s.ring with
                      transit := rest, began := s.time,
                      outbound := some { queue := .transit, bytes := withCrc (departing s.time e) } } })
                ∧ (s.ring.transit = [] →
                  outboundFree s = { s with ease := counted false 0, seg := { s.seg with control := kept } }))))

/-- What a control parcel carries at its launch: a SIGNON, a MARK and an EASE as queued, an EASE counted (R136); a BEACON with the
time since its sample as its age (R52); a STATUS with its contents filled, its sequence taken, its record in the pending-return
list, and the own roll entry written (R27, R31, R37). The contents of a STATUS are the fields of Table 2.4 (R32), and every parcel sent
has the layout of Tables 12.1 to 12.3 (R127, R180): the header with hops-left 15, each field in its bytes, most significant first, zeros
after the last field of a fixed-size body, and the CRC after the body; a receiver reads the fields where the sender puts them. The CRC-32
is the register after every bit, the most significant of each byte first, inverted. The
model's readings: the contents are taken before an overdue record acts (log 23), a STATUS carries no coil (log 34), the sum of
saturated counters is taken in full (log 31), and the bits of a SIGNON that Table 12.3 does not name are 0 (log 39). -/
def Obligations.ControlParcelLaunches : Prop :=
  (∀ (s : State) (h : OwnHeader) (c : StatusContents), c = ownStatus s h →
    c.source = h.source ∧ c.originKey = h.key ∧ (∀ id, s.ctl.identity = some id → c.identity = id)
    ∧ c.sequence = s.ctl.sequence ∧ c.stationState.toNat = s.ctl.state.code ∧ c.clockState.toNat = s.strip.clock.code
    ∧ (∀ n, (s.strip.clock = .following ∨ s.strip.clock = .coasting) → s.strip.followed = some n → c.followed.toNat = n.val)
    ∧ (∀ n, s.strip.clock = .held → s.strip.source = .station n → c.followed.toNat = n.val)
    ∧ (s.strip.clock = .loc ∨ s.strip.clock = .none ∨ (s.strip.clock = .held ∧ ∀ n, s.strip.source ≠ .station n) →
        c.followed = 0xFF)
    ∧ (∀ i : Cam, (c.portStates.extractLsb' (4 * i.val) 4).toNat = s.cams[i].port.state.code)
    ∧ (LinesWithin s → c.queueFill.toNat = lineOccupancy s.seg.lines * 100 / 262144)
    ∧ c.easeOriginating = (if s.ease.originating = true then 1 else 0)
    ∧ c.crcFaults.toNat = s.ring.crcFaults.toNat % 65536
    ∧ c.linesRefused.toNat = (s.cams[0].adm.refused.toNat + s.cams[1].adm.refused.toNat + s.cams[2].adm.refused.toNat
        + s.cams[3].adm.refused.toNat) % 65536
    ∧ c.linesMissing.toNat = (s.cams[0].trig.missing.toNat + s.cams[1].trig.missing.toNat + s.cams[2].trig.missing.toNat
        + s.cams[3].trig.missing.toNat) % 65536
    ∧ c.brokenLines.toNat = s.take.brokenLines.toNat % 65536)
  ∧ ([StationState.start, .passOnly, .joining, .running, .ringOpen, .duplicate].map StationState.code = [0, 1, 2, 3, 4, 5]
    ∧ [ClockState.loc, .none, .following, .coasting, .held].map ClockState.code = [0, 1, 2, 3, 4]
    ∧ [PortState.off, .dark, .sizing, .locked, .mismatch].map PortState.code = [0, 1, 2, 3, 4])
  ∧ (∀ (p : List Byte) (i n w : Nat), field p i 0 w = 0
      ∧ (i + n < p.length → 8 * (n + 1) ≤ w → (field p i (n + 1) w).toNat = 256 * (field p i n w).toNat + (byteAt p (i + n)).toNat))
  ∧ (∃ register : List Bool → Word32, register [] = 0xFFFFFFFF
      ∧ (∀ l b, register (l ++ [b]) = (register l <<< 1) ^^^ (if (register l).msb = b then 0 else 0x04C11DB7))
      ∧ ∀ p : List Byte, crc32 p = ~~~ register (p.flatMap (fun c => (List.range 8).map (fun j => c.getLsbD (7 - j)))))
  ∧ (∀ p : List Byte,
      (kindField p = some .line ↔ byteAt p 0 = 1) ∧ (kindField p = some .beacon ↔ byteAt p 0 = 2)
      ∧ (kindField p = some .mark ↔ byteAt p 0 = 3) ∧ (kindField p = some .ease ↔ byteAt p 0 = 4)
      ∧ (kindField p = some .status ↔ byteAt p 0 = 5) ∧ (kindField p = some .signon ↔ byteAt p 0 = 6)
      ∧ hopsField p = (byteAt p 1).toNat / 16 ∧ (sourceField p).val = (byteAt p 1).toNat % 16 ∧ keyField p = field p 2 2 16
      ∧ lengthField p = (field p 4 2 16).toNat)
  ∧ (∀ p : List Byte, (withCrc p).take p.length = p ∧ (withCrc p).length = p.length + 4
      ∧ field (withCrc p) p.length 4 32 = crc32 p)
  ∧ (∀ (h : OwnHeader) (x seam : Coord) (v : Speed) (age : BitVec 24) (seq coil : Word16) (p : List Byte),
      p = beaconBytes h x v age seq coil seam →
      HasHeader h 2 53 p ∧ beaconCoord p = field p 7 6 48 ∧ field p 7 6 48 = x ∧ beaconSpeed p = field p 13 3 24
      ∧ field p 13 3 24 = v ∧ ageField p = field p 16 3 24 ∧ field p 16 3 24 = age ∧ beaconSeq p = field p 19 2 16
      ∧ field p 19 2 16 = seq ∧ beaconCoil p = field p 21 2 16 ∧ field p 21 2 16 = coil ∧ beaconSeam p = field p 23 6 48
      ∧ field p 23 6 48 = seam ∧ ∀ i, 29 ≤ i → byteAt p i = 0)
  ∧ (∀ (h : OwnHeader) (x : Coord) (coil : Word16) (p : List Byte), p = markBytes h x coil →
      HasHeader h 3 53 p ∧ markCoord p = field p 7 6 48 ∧ field p 7 6 48 = x ∧ markCoil p = field p 13 2 16
      ∧ field p 13 2 16 = coil ∧ ∀ i, 15 ≤ i → byteAt p i = 0)
  ∧ (∀ (h : OwnHeader) (share : Word16) (p : List Byte), p = easeBytes h share →
      HasHeader h 4 53 p ∧ easeShare p = field p 7 2 16 ∧ field p 7 2 16 = share ∧ ∀ i, 9 ≤ i → byteAt p i = 0)
  ∧ (∀ (h : OwnHeader) (id : Word32) (f : Functions) (p : List Byte), p = signonBytes h id f →
      HasHeader h 6 53 p ∧ identityField p = field p 7 4 32 ∧ field p 7 4 32 = id ∧ functionsField p = f
      ∧ (byteAt p 11).toNat = f.cameras.toNat
      ∧ (byteAt p 12).toNat = f.encoder.toNat + 2 * f.seamInput.toNat + 4 * f.takeOff.toNat ∧ ∀ i, 13 ≤ i → byteAt p i = 0)
  ∧ (∀ (h : OwnHeader) (c : StatusContents) (p : List Byte), c.source = h.source → c.originKey = h.key → p = statusBytes h c →
      HasHeader h 5 117 p ∧ statusField p = c ∧ field p 7 4 32 = c.identity ∧ field p 11 2 16 = c.sequence
      ∧ byteAt p 13 = c.stationState ∧ byteAt p 14 = c.clockState ∧ byteAt p 15 = c.followed ∧ field p 16 2 16 = c.portStates
      ∧ byteAt p 18 = c.queueFill ∧ byteAt p 19 = c.easeOriginating ∧ field p 20 2 16 = c.crcFaults
      ∧ field p 22 2 16 = c.linesRefused ∧ field p 24 2 16 = c.linesMissing ∧ field p 26 2 16 = c.brokenLines
      ∧ ∀ i, 28 ≤ i → byteAt p i = 0)
  ∧ (∀ (q : LineParcel) (p : List Byte), q.payload.length ≤ 2048 → p = lineBytes q →
      HasHeader q.header 1 (21 + q.payload.length) p ∧ (byteAt p 7).toNat = q.camera.val ∧ field p 8 4 32 = q.serial
      ∧ byteAt p 12 = BitVec.ofNat 8 q.segIndex ∧ byteAt p 13 = BitVec.ofNat 8 q.segCount ∧ field p 14 2 16 = q.coil
      ∧ field p 16 4 32 = q.nominal ∧ field p 20 2 16 = q.flags ∧ byteAt p 22 = BitVec.ofNat 8 q.depth
      ∧ field p 23 2 16 = BitVec.ofNat 16 q.segPixels ∧ field p 25 2 16 = q.clips ∧ byteAt p 27 = q.thinnedSince
      ∧ p.drop 28 = q.payload)
  ∧ (∀ (p : List Byte) (g : Segment), g = segmentOf p →
      g.source.val = (byteAt p 1).toNat % 16 ∧ g.camera = (byteAt p 7).toNat ∧ g.serial = field p 8 4 32
      ∧ g.index = (byteAt p 12).toNat ∧ g.count = (byteAt p 13).toNat ∧ g.coil = field p 14 2 16
      ∧ g.nominal = field p 16 4 32 ∧ g.flags.toNat = (field p 20 2 16).toNat % 256 ∧ g.depth = (byteAt p 22).toNat
      ∧ g.pixels = (field p 23 2 16).toNat ∧ g.clips = field p 25 2 16 ∧ g.thinnedSince = byteAt p 27 ∧ g.payload = p.drop 28)
  ∧ ∀ (h : OwnHeader) (s : State),
    (∀ id f, launchControl { header := h, body := .signon id f } s = { s with ring := { s.ring with
        began := s.time, outbound := some { queue := .control, bytes := withCrc (signonBytes h id f) } } })
    ∧ (∀ x coil, launchControl { header := h, body := .mark x coil } s = { s with ring := { s.ring with
        began := s.time, outbound := some { queue := .control, bytes := withCrc (markBytes h x coil) } } })
    ∧ (∀ share, launchControl { header := h, body := .ease share } s = { s with
        ease := { s.ease with easesSent := satInc s.ease.easesSent },
        ring := { s.ring with
          began := s.time, outbound := some { queue := .control, bytes := withCrc (easeBytes h share) } } })
    ∧ (∀ x v seq coil seam sample, launchControl { header := h, body := .beacon x v seq coil seam sample } s =
        { s with
          ring := { s.ring with
            began := s.time,
            outbound := some {
              queue := .control,
              bytes := withCrc (beaconBytes h x v
              (BitVec.ofNat 24 (min (s.time - sample).toNat 16777215)) seq coil seam) } } })
    ∧ (∀ c e r, c = ownStatus s h → e = s.ctl.roll[s.ctl.number] → r = { sequence := s.ctl.sequence, launch := s.time } →
        ∃ t, launchControl { header := h, body := .status } s = t
          ∧ t = { s with ring := t.ring, ctl := t.ctl }
          ∧ t.ring = { s.ring with
              began := s.time, outbound := some { queue := .control, bytes := withCrc (statusBytes h c) } }
          ∧ c.sequence = s.ctl.sequence ∧ t.ctl.sequence = s.ctl.sequence + 1
          ∧ t.ctl.roll = put s.ctl.roll s.ctl.number
              { e with
                condition := if e.condition = .clash then .clash else .present,
                identity := some (s.ctl.identity.getD 0), lastSequence := some s.ctl.sequence, receipt := s.time, missed := 0,
                functions := some (ownFunctions s), contents := some c }
          ∧ (s.ctl.pendingReturn.length < 4 →
              t.ctl = { s.ctl with sequence := t.ctl.sequence, roll := t.ctl.roll,
                                   pendingReturn := s.ctl.pendingReturn ++ [r] })
          ∧ (4 ≤ s.ctl.pendingReturn.length →
              t.ctl = { s.ctl with
                sequence := t.ctl.sequence, roll := t.ctl.roll, pendingReturn := s.ctl.pendingReturn.drop 1 ++ [r],
                state := if s.ctl.state = .joining ∨ s.ctl.state = .running then .ringOpen else s.ctl.state,
                signonTimer :=
                  if s.ctl.state = .joining ∨ s.ctl.state = .running then none else s.ctl.signonTimer }))

/-- When the scheduler chooses (R13, R14). A completion of sending and the end of an alignment run free the port, and either an
alignment run that is due begins, or the scheduler chooses; a parcel of s bytes occupies s + 2 character times at 125 in a unit. A
join while the port is busy waits; while it is idle it is an outbound-free event, unless an alignment run is due and the idle run in
progress has not reached 64 characters; whether a run less than two units old has is free (log 5). -/
def Obligations.PortComesFree : Prop :=
  (∀ (p : OutParcel) (s : State), s.ring.outbound = some p →
      ((s.time - s.ring.began).toNat < (p.bytes.length + 2) / 125 → exec .sendCompletion s = .next s)
      ∧ ((p.bytes.length + 2) / 125 ≤ (s.time - s.ring.began).toNat →
          exec .sendCompletion s = .next
            (if (∀ e, s.ring.lastRunEnd = some e → 1000 ≤ (s.time - e).toNat) then
              { s with ring := { s.ring with outbound := none, idleUnits := 0, aligning := true, began := s.time } }
            else outboundFree { s with ring := { s.ring with outbound := none, idleUnits := 0 } })))
  ∧ (∀ s : State, s.ring.outbound = none → exec .sendCompletion s = .next s)
  ∧ (∀ s : State, exec .alignmentRunEnd s = .next (if s.ring.aligning = true then
      outboundFree { s with ring := { s.ring with aligning := false, lastRunEnd := some s.time, idleUnits := 2 } } else s))
  ∧ (∀ s : State,
    (PortBusy s → freeWhileIdle s = s)
    ∧ (¬ PortBusy s → 2 ≤ s.ring.idleUnits →
        freeWhileIdle s = outboundFree { s with ring := { s.ring with lastRunEnd := some s.time } })
    ∧ (¬ PortBusy s → s.ring.idleUnits < 2 → ∃ reached64 : Bool, freeWhileIdle s =
        if reached64 then
          outboundFree { s with freeCount := s.freeCount + 1, ring := { s.ring with lastRunEnd := some s.time } }
        else if (∀ e, s.ring.lastRunEnd = some e → 1000 ≤ (s.time - e).toNat) then
          { s with freeCount := s.freeCount + 1, ring := { s.ring with aligning := true, began := s.time } }
        else outboundFree { s with freeCount := s.freeCount + 1 }))

/-! ### The end of START -/

/-- The end of the EEPROM read with an invalid record (R23, R29, R30, R69, R103, R176, R178): the station enters PASS_ONLY, every
function is off, and a STATUS is requested, after a SIGNON with the inbound UP. Before 2 ms nothing happens. That no settings are
held, which request goes first, and that the position source and the illegal-step list stay as they were are the model's choices
(log 17, 16 and 25). -/
def Obligations.ReadFindsNoValidRecord : Prop :=
  (∀ s : State, s.store.readStart = none → exec .eepromReadComplete s = .next s)
  ∧ (∀ (b : Time) (s : State), s.store.readStart = some b → (s.time - b).toNat < 20000 →
      exec .eepromReadComplete s = .next s)
  ∧ (∀ (b : Time) (s u : State), s.store.readStart = some b → 20000 ≤ (s.time - b).toNat →
      recordValid s.store.eeprom = false →
      u = { s with
        ctl := { s.ctl with
          identity := some (s.store.eeprom[2] ++ s.store.eeprom[3]), state := .passOnly, statusTimer := some s.time,
          signonTimer := if s.ring.link = .up then some s.time else s.ctl.signonTimer },
        strip := { s.strip with encoder := .none, clock := .none, followed := none },
        cams := each (fun c => { c with port := { c.port with state := .off } }) s.cams,
        store := { s.store with
          image := s.store.eeprom, imageRead := 128, readStart := none, settings := none,
          faults := { encoder := false, seamInput := false, takeOff := false, cameras := 0 } } } →
      exec .eepromReadComplete s = .next (placeRequest .status
        (if s.ring.link = .up then
          placeRequest (.signon (s.store.eeprom[2] ++ s.store.eeprom[3])
            { cameras := 0, encoder := false, seamInput := false, takeOff := false }) u
        else u)))

/-- The end of the EEPROM read with a valid record (R24, R65, R67, R69, R81, R86, R103, R163, R176, R181): each block takes its
settings, and the station enters JOINING with a SIGNON request (inbound UP) and a STATUS request; with the inbound DARK it passes on
to OPEN. The order of the requests is the model's choice (log 16). -/
def Obligations.ReadFindsAValidRecord : Prop :=
  ∀ (b : Time) (s : State) (t : Settings), s.store.readStart = some b → 20000 ≤ (s.time - b).toNat →
    recordValid s.store.eeprom = true → t = recordSettings s.store.eeprom →
    ∃ u : State,
      u = { s with ring := u.ring, ctl := u.ctl, strip := u.strip, seam := u.seam, cams := u.cams, dlv := u.dlv, store := u.store }
      ∧ u.ring = { s.ring with linkDelay := s.store.eeprom[5] }
      ∧ u.ctl = { s.ctl with
          identity := some (s.store.eeprom[2] ++ s.store.eeprom[3]), state := .joining, configValid := true,
          pendingReturn := [], statusTimer := some s.time }
      ∧ u.store = { s.store with
          image := s.store.eeprom, imageRead := 128, readStart := none, settings := some t,
          faults := recordFaults s.store.eeprom }
      ∧ u.dlv = { s.dlv with active := t.takeOff }
      ∧ (t.encoder = true → s.strip.encoder = .none → u.strip = { s.strip with
          encoder := .good, lastCount := s.strip.count, residue := 0, clock := .loc, followed := none, source := .loc,
          alignStart := some s.time, aligned := false })
      ∧ (t.encoder = true → s.strip.encoder ≠ .none → u.strip = { s.strip with
          residue := if s.strip.residue.toNat < t.den then s.strip.residue else 0,
          alignStart := some s.time, aligned := false })
      ∧ (t.encoder = false → u.strip = { s.strip with
          encoder := .none, illegal := [],
          clock := if s.strip.clock = .loc then .none else s.strip.clock,
          followed := if s.strip.clock = .loc then none else s.strip.followed,
          source := if s.strip.clock = .loc then .none else s.strip.source })
      ∧ (∀ i : Cam, u.cams[i] = { s.cams[i] with
          port := { s.cams[i].port with state := if t.cameras[i].enabled = true then .dark else .off },
          trig := { s.cams[i].trig with
            fallbackMark :=
              if t.cameras[i].enabled = true ∧ (u.strip.clock = .none ∨ u.strip.clock = .held) then s.cams[i].trig.lastTrigger
              else s.cams[i].trig.fallbackMark } })
      ∧ (s.seam.latest = none → u.seam = s.seam)
      ∧ (∀ r, s.seam.latest = some r → u.seam = (offerSeam r { u with seam := s.seam }).seam)
      ∧ (s.ring.link = .up → exec .eepromReadComplete s = .next (placeRequest .status
          (placeRequest (.signon (s.store.eeprom[2] ++ s.store.eeprom[3]) (ownFunctions u))
            { u with ctl := { u.ctl with signonTimer := some s.time } })))
      ∧ (s.ring.link = .syncing → exec .eepromReadComplete s = .next (placeRequest .status u))
      ∧ (s.ring.link = .dark → ∃ v, placeRequest .status u = v ∧ exec .eepromReadComplete s =
          .next { v with ctl := { v.ctl with state := .ringOpen, signonTimer := none } })

/-- The configuration record (R22, R176, Tables 12.7 and 12.8): its validity, and where each setting lies. A function is enabled
when its bit is set and its fields are valid; a set bit with an invalid field sets its fault flag (R41, R70, R85, R101, R145, R178). A camera's
fields are valid in the ranges of Tables 5.1 and 6.1 (R181), and the nominal output count and the black value follow from them
(R101, R110). -/
def Obligations.RecordLayout : Prop :=
  ∀ (m : Vector Word16 128) (w : Nat → Word16), (∀ j : Fin 128, w j.val = m[j]) →
    (recordValid m = true ↔ w 0 = 0x5C3A ∧ w 1 = 0x91E7 ∧ ((List.range 128).map (fun j => (w j).toNat)).sum % 65536 = 0)
    ∧ recordIdentity m = w 2 ++ w 3 ∧ recordLinkDelay m = w 5
    ∧ ((recordSettings m).encoder = true ↔ (w 4).getLsbD 15 = true ∧ w 6 ≠ 0 ∧ w 7 ≠ 0)
    ∧ ((recordFaults m).encoder = true ↔ (w 4).getLsbD 15 = true ∧ (w 6 = 0 ∨ w 7 = 0))
    ∧ ((recordFaults m).seamInput = true ↔
        (w 4).getLsbD 13 = true ∧ ((w 12 ++ w 13).toNat = 0 ∨ 1000000 < (w 12 ++ w 13).toNat))
    ∧ ((recordFaults m).takeOff = true ↔ (w 4).getLsbD 12 = true ∧ 1 < (w 4).toNat % 4)
    ∧ (recordSettings m).reversed = (w 4).getLsbD 14
    ∧ (recordSettings m).num = (w 6).toNat ∧ (recordSettings m).den = (w 7).toNat
    ∧ (recordSettings m).encoderOffset = (w 8 ++ w 9).toInt ∧ (recordSettings m).detectorOffset = (w 10 ++ w 11).toInt
    ∧ (recordSettings m).lockout = (w 12 ++ w 13).toNat
    ∧ ((recordSettings m).seamInput = true ↔
        (w 4).getLsbD 13 = true ∧ 1 ≤ (w 12 ++ w 13).toNat ∧ (w 12 ++ w 13).toNat ≤ 1000000)
    ∧ ((recordSettings m).takeOff = true ↔ (w 4).getLsbD 12 = true ∧ (w 4).toNat % 4 ≤ 1)
    ∧ ((recordSettings m).deliverBroken = true ↔ (w 4).toNat % 4 = 1)
    ∧ (∀ j : Fin 8, (recordSettings m).filters[j].enabled = (w (14 + j.val)).getLsbD 15
        ∧ (recordSettings m).filters[j].value.toNat = (w (14 + j.val)).toNat / 256 % 64
        ∧ (recordSettings m).filters[j].mask.toNat = (w (14 + j.val)).toNat % 64)
    ∧ ∀ (i : Cam) (c : CameraSettings) (v : Nat → Word16), c = (recordSettings m).cameras[i] →
        (∀ k, v k = w (22 + 19 * i.val + k)) →
        (cameraValid m i.val = true ↔
          1 ≤ (v 1).toNat ∧ 10 ≤ (v 4).toNat
          ∧ ((v 5 ++ v 6).toNat = 0 ∨ (500 ≤ (v 5 ++ v 6).toNat ∧ (v 5 ++ v 6).toNat ≤ 100000))
          ∧ ((v 7 ++ v 8).toNat = 0
            ∨ (100 ≤ (v 7 ++ v 8).toNat ∧ (v 7 ++ v 8).toNat ≤ 1000000 ∧ (v 4).toNat ≤ (v 7 ++ v 8).toNat))
          ∧ ((v 0).toNat / 256 % 16 = 8 ∨ (v 0).toNat / 256 % 16 = 10 ∨ (v 0).toNat / 256 % 16 = 12)
          ∧ ((v 0).toNat / 16 % 16 = 1 ∨ (v 0).toNat / 16 % 16 = 2) ∧ (v 0).toNat % 4 ≤ 2
          ∧ 256 ≤ (v 9).toNat ∧ (v 9).toNat ≤ 16384 ∧ (v 10).toNat ≤ 1023 ∧ (v 10).toNat < (v 9).toNat
          ∧ (v 11).toNat ≤ 16384 ∧ (v 12).toNat ≤ 4095 ∧ (v 13).toNat ≤ 1023
          ∧ -2048 ≤ (v 14).toInt ∧ (v 14).toInt ≤ 2047 ∧ (v 15).toNat ≤ (v 16).toNat
          ∧ (v 16).toNat ≤ (if (v 0).toNat / 16 % 16 = 2 then 4095 else 255))
        ∧ c.nominalCount =
            min (c.windowStart + (if c.windowWidth = 0 then c.nominal else c.windowWidth)) c.nominal - c.windowStart
        ∧ c.blackValue = conditioned c 0
        ∧ (c.enabled = true ↔ (v 0).getLsbD 15 = true ∧ cameraValid m i.val = true)
        ∧ ((recordFaults m).cameras.getLsbD i.val = true ↔ (v 0).getLsbD 15 = true ∧ cameraValid m i.val = false)
        ∧ c.free = (v 0).getLsbD 14 ∧ c.substitute = (v 0).getLsbD 13 ∧ c.lengthCheck = (v 0).getLsbD 12
        ∧ c.inputDepth = (v 0).toNat / 256 % 16 ∧ (c.deep = true ↔ (v 0).toNat / 16 % 16 = 2)
        ∧ (c.fill = .flat ↔ (v 0).toNat % 4 = 1) ∧ (c.fill = .ramp ↔ (v 0).toNat % 4 = 2)
        ∧ c.pitch = (v 1).toNat ∧ c.offset = (v 2 ++ v 3).toInt ∧ c.minInterval = (v 4).toNat
        ∧ c.timeout = (if v 5 = 0 ∧ v 6 = 0 then 10000 else (v 5 ++ v 6).toNat) ∧ c.fallback = (v 7 ++ v 8).toNat
        ∧ c.nominal = (v 9).toNat ∧ c.windowStart = (v 10).toNat ∧ c.windowWidth = (v 11).toNat
        ∧ c.black = (v 12).toNat ∧ c.gain = (v 13).toNat ∧ c.lift = (v 14).toInt ∧ c.low = (v 15).toNat
        ∧ c.high = (v 16).toNat ∧ c.peak = (v 17).toNat
        ∧ c.thin = (if (v 18).toNat ≤ 1 then 1 else min (v 18).toNat 16)

/-! ### Timers of station control -/

/-- The SIGNON, STATUS and BEACON timers (R29, R30, R50, R51): at its expiry the next period begins and the request is placed; the
beacon timer starts with a request when the last of its four conditions becomes true, and stops when one becomes false. A SIGNON carries
the functions that the held settings enable, and none while none are held; the blocks read the same settings, and run in JOINING,
RUNNING, OPEN and DUPLICATE. -/
def Obligations.RequestTimers : Prop :=
  (∀ (s : State) (t : Settings), s.store.settings = some t →
    (∀ i : Cam, (ownFunctions s).cameras.getLsbD i.val = t.cameras[i].enabled ∧ s.camSettings i = some t.cameras[i]
      ∧ s.camEnabled i = t.cameras[i].enabled)
    ∧ (ownFunctions s).encoder = t.encoder ∧ (ownFunctions s).seamInput = t.seamInput ∧ (ownFunctions s).takeOff = t.takeOff
    ∧ s.encoderStation = t.encoder ∧ s.seamStation = t.seamInput ∧ s.takeOffEnabled = t.takeOff)
  ∧ (∀ s : State, s.store.settings = none →
    ownFunctions s = { cameras := 0, encoder := false, seamInput := false, takeOff := false }
    ∧ (∀ i : Cam, s.camSettings i = none ∧ s.camEnabled i = false)
    ∧ s.encoderStation = false ∧ s.seamStation = false ∧ s.takeOffEnabled = false)
  ∧ [StationState.start, .passOnly, .joining, .running, .ringOpen, .duplicate].map StationState.runs
      = [false, false, true, true, true, true]
  ∧ ∀ s : State,
    (s.ctl.signonTimer = none → exec .signonTimerExpiry s = .next s)
    ∧ (∀ b, s.ctl.signonTimer = some b → exec .signonTimerExpiry s = .next (if 100000 ≤ (s.time - b).toNat then
        placeRequest (.signon (s.ctl.identity.getD 0) (ownFunctions s))
          { s with ctl := { s.ctl with signonTimer := some (b + 100000) } }
        else s))
    ∧ (s.ctl.statusTimer = none → exec .statusTimerExpiry s = .next s)
    ∧ (∀ b, s.ctl.statusTimer = some b → exec .statusTimerExpiry s = .next (if 100000 ≤ (s.time - b).toNat then
        placeRequest .status { s with ctl := { s.ctl with statusTimer := some (b + 100000) } }
        else s))
    ∧ (s.strip.beaconTimer = none → exec .beaconTimerExpiry s = .next s)
    ∧ ∀ body : ControlBody,
        body = .beacon s.strip.xhat s.strip.vs s.strip.beaconSequence ((s.seam.latest.map SeamRecord.coil).getD 0)
          ((s.seam.latest.map SeamRecord.coord).getD 0) s.time →
        (∀ b, s.strip.beaconTimer = some b → exec .beaconTimerExpiry s = .next (if 2500 ≤ (s.time - b).toNat then
            placeRequest body { s with strip := { s.strip with
              beaconTimer := some (b + 2500), beaconSequence := s.strip.beaconSequence + 1 } }
            else s))
        ∧ (s.encoderStation = true ∧ s.strip.clock = .loc ∧ s.strip.aligned = true
              ∧ (s.ctl.state = .joining ∨ s.ctl.state = .running ∨ s.ctl.state = .ringOpen) →
            recheckBeacon s = if s.strip.beaconTimer = none then
              placeRequest body { s with strip := { s.strip with
                beaconTimer := some s.time, beaconSequence := s.strip.beaconSequence + 1 } }
            else s)
        ∧ (s.encoderStation = false ∨ s.strip.clock ≠ .loc ∨ s.strip.aligned = false
              ∨ s.ctl.state = .start ∨ s.ctl.state = .passOnly ∨ s.ctl.state = .duplicate →
            recheckBeacon s = { s with strip := { s.strip with beaconTimer := none } })

/-- The return watch, the clash expiry and the silence expiry (R27, R35, R38). That a silence expiry already past falls again for an
entry that goes to CLASH is the model's reading (log 30). -/
def Obligations.RollAndReturnExpiries : Prop :=
  ∀ s : State,
    (s.ctl.pendingReturn = [] → exec .returnWatchExpiry s = .next s)
    ∧ (∀ r rest, s.ctl.pendingReturn = r :: rest →
        exec .returnWatchExpiry s = .next (if 300000 ≤ (s.time - r.launch).toNat then
          { s with ctl := { s.ctl with
              pendingReturn := rest,
              state := if s.ctl.state = .joining ∨ s.ctl.state = .running then .ringOpen else s.ctl.state,
              signonTimer :=
                if s.ctl.state = .joining ∨ s.ctl.state = .running then none else s.ctl.signonTimer } }
          else s))
    ∧ ∀ (n : Station) (e : RollEntry), e = s.ctl.roll[n] →
        exec (.clashExpiry n) s = .next (if e.condition = .clash ∧ 10000000 ≤ (s.time - e.identityChange).toNat then
          { s with ctl := { s.ctl with roll := put s.ctl.roll n { e with condition := .present } } } else s)
        ∧ exec (.silenceExpiry n) s = .next
          (if (e.condition = .present ∨ e.condition = .clash) ∧ 1000000 ≤ (s.time - e.receipt).toNat then
            { s with ctl := { s.ctl with roll := put s.ctl.roll n { e with condition := .silent } } } else s)

/-! ### The strip position unit -/

/-- A sample in which at most one input changed (R42, Table 3.2): along 00, 01, 11, 10 and back to 00 the count goes up by one with
the direction normal, the other way down; a reversed direction exchanges the two. That the direction is normal in PASS_ONLY, where no
settings are held, is the model's choice (log 17). -/
def Obligations.EncoderStepsCount : Prop :=
  ∀ (a b up : Bool) (s : State) (forward : List (Bool × Bool × Bool × Bool)),
    forward = [(false, false, false, true), (false, true, true, true), (true, true, true, false), (true, false, false, false)] →
    (up = true ↔ ¬ ∃ t, s.store.settings = some t ∧ t.reversed = true) →
    (s.strip.heldA = a → s.strip.heldB = b → exec (.encoderSample a b) s = .next s)
    ∧ ((s.strip.heldA, s.strip.heldB, a, b) ∈ forward → exec (.encoderSample a b) s = .next { s with strip := { s.strip with
        heldA := a, heldB := b, count := if up then s.strip.count + 1 else s.strip.count - 1 } })
    ∧ ((a, b, s.strip.heldA, s.strip.heldB) ∈ forward → exec (.encoderSample a b) s = .next { s with strip := { s.strip with
        heldA := a, heldB := b, count := if up then s.strip.count - 1 else s.strip.count + 1 } })

/-- A sample in which both inputs changed (R43, R62): with an encoder it is counted and its time listed; the sixteenth within 1 ms
takes a GOOD encoder to FAULT, and a LOCAL clock then follows the best FRESH entry, or is held. -/
def Obligations.IllegalEncoderSteps : Prop :=
  ∀ (a b : Bool) (s : State) (l : List Time) (u : StripUnit), a ≠ s.strip.heldA → b ≠ s.strip.heldB →
    l = (s.strip.illegal ++ [s.time]).drop (s.strip.illegal.length + 1 - 16) →
    u = { s.strip with heldA := a, heldB := b, encoderErrors := satInc s.strip.encoderErrors, illegal := l } →
    (s.strip.encoder = .none → exec (.encoderSample a b) s = .next { s with strip := { s.strip with heldA := a, heldB := b } })
    ∧ (s.strip.encoder ≠ .none →
        (s.strip.encoder = .fault ∨ l.length < 16 ∨ (∀ x, l.head? = some x → 10000 ≤ (s.time - x).toNat) →
          exec (.encoderSample a b) s = .next { s with strip := u })
        ∧ (s.strip.encoder = .good → l.length = 16 → (∀ x, l.head? = some x → (s.time - x).toNat < 10000) →
            (s.strip.clock ≠ .loc → exec (.encoderSample a b) s = .next { s with strip := { u with encoder := .fault } })
            ∧ (s.strip.clock = .loc → bestFresh s.strip.table = none →
                exec (.encoderSample a b) s = .next { s with
                  strip := { u with
                    encoder := .fault, windowAdvance := 0, clock := .held, followed := none, beaconTimer := none },
                  cams := Vector.ofFn (fun i : Cam => if s.ctl.state.runs = true ∧ s.camEnabled i = true then
                      { s.cams[i] with trig := { s.cams[i].trig with fallbackMark := s.cams[i].trig.lastTrigger } }
                    else s.cams[i]) })
            ∧ (∀ n, s.strip.clock = .loc → s.strip.source = .loc → bestFresh s.strip.table = some n →
                exec (.encoderSample a b) s = .next { s with
                  strip := { u with
                    encoder := .fault, windowAdvance := 0, clock := .following, followed := some n, beaconTimer := none,
                    vs := s.strip.table[n].speed, source := .station n,
                    sourceSwitches := satInc s.strip.sourceSwitches },
                  cams := each (fun c => { c with trig := { c.trig with sourceChange := true } }) s.cams })))

/-- The best FRESH entry has the fewest hops used, and the lowest station number among those (R62, R65), and there is none when no entry
is FRESH; the same over the other entries when the followed one goes STALE (R58). -/
def Obligations.FewestHopsAreFollowed : Prop :=
  ∀ (t : Vector BeaconEntry 16) (n : Station),
    (bestFresh t = some n ↔ t[n].condition = .fresh ∧ ∀ m : Station, t[m].condition = .fresh →
        t[n].hopsUsed.toNat < t[m].hopsUsed.toNat ∨ (t[n].hopsUsed = t[m].hopsUsed ∧ n ≤ m))
    ∧ (bestFresh t = none ↔ ∀ m : Station, t[m].condition ≠ .fresh)
    ∧ ∀ k : Station,
        (bestFreshBut t k = some n ↔ n ≠ k ∧ t[n].condition = .fresh ∧ ∀ m : Station, m ≠ k → t[m].condition = .fresh →
            t[n].hopsUsed.toNat < t[m].hopsUsed.toNat ∨ (t[n].hopsUsed = t[m].hopsUsed ∧ n ≤ m))
        ∧ (bestFreshBut t k = none ↔ ∀ m : Station, m ≠ k → t[m].condition ≠ .fresh)

/-- An encoder in FAULT with no illegal step for 10 ms returns to GOOD (R44, R63): X is re-based onto the estimate, the clock enters
LOCAL, and the beacon timer is considered again. -/
def Obligations.EncoderReturnsToGood : Prop :=
  ∀ s : State,
    (s.strip.encoder ≠ .fault ∨ s.strip.illegal = []
        ∨ (∃ x, s.strip.illegal.getLast? = some x ∧ (s.time - x).toNat < 100000) → exec .cleanExpiry s = .next s)
    ∧ ∀ (t : Settings) (x : Time), s.strip.encoder = .fault → s.strip.illegal.getLast? = some x → 100000 ≤ (s.time - x).toNat →
        s.store.settings = some t →
        ∃ u : StripUnit,
          u = { s.strip with
            encoder := .good, illegal := [], x := u.x, xhat := u.xhat, residue := 0, lastCount := s.strip.count,
            windowAdvance := 0, clock := .loc, followed := none, source := .loc }
          ∧ (u.x.toNat : Int) = max 0 (min 281474976710655 ((s.strip.xhat.toNat : Int) - t.encoderOffset))
          ∧ (u.xhat.toNat : Int) = max 0 (min 281474976710655 ((u.x.toNat : Int) + t.encoderOffset))
          ∧ (s.strip.source = .none ∨ s.strip.source = .loc →
              exec .cleanExpiry s = .next (recheckBeacon { s with strip := u }))
          ∧ ((∃ n, s.strip.source = .station n) →
              exec .cleanExpiry s = .next (recheckBeacon { s with
                strip := { u with sourceSwitches := satInc s.strip.sourceSwitches },
                cams := each (fun c => { c with trig := { c.trig with sourceChange := true } }) s.cams }))

/-- The speed window and the index pulse (R48, R66): in LOCAL the speed goes a quarter of the way to 256 times the window advance,
rounded down and clamped; the window advance becomes 0 in every clock state. -/
def Obligations.SpeedWindowAndIndexPulse : Prop :=
  ∀ s : State,
    ((s.time - s.strip.windowTimer).toNat < 640 → exec .speedWindowExpiry s = .next s)
    ∧ (640 ≤ (s.time - s.strip.windowTimer).toNat → ∃ v : Speed,
        exec .speedWindowExpiry s = .next { s with strip := { s.strip with
          windowTimer := s.strip.windowTimer + 640, windowAdvance := 0, vs := v } }
        ∧ (s.strip.clock ≠ .loc → v = s.strip.vs)
        ∧ (s.strip.clock = .loc → v.toInt =
            max (-8388607) (min 8388607 (s.strip.vs.toInt + (s.strip.windowAdvance * 256 - s.strip.vs.toInt) / 4))))
    ∧ exec .indexPulse s = .next (if s.strip.encoder = .none then s
        else { s with strip := { s.strip with indexPulses := satInc s.strip.indexPulses } })

/-- A beacon entry goes STALE 2 ms after its receipt and empties 20 ms after it (R55); when it is the followed one, the clock follows
the best other FRESH entry or coasts (R58), and from COASTING it is held (R59). That an entry
empties only once it is STALE is the model's reading (log 19). -/
def Obligations.BeaconEntriesAge : Prop :=
  ∀ (n : Station) (s : State) (e : BeaconEntry) (stale : Vector BeaconEntry 16), e = s.strip.table[n] →
    stale = put s.strip.table n { e with condition := .stale } →
    (¬ (e.condition = .fresh ∧ 20000 ≤ (s.time - e.receipt).toNat) → exec (.staleExpiry n) s = .next s)
    ∧ (e.condition = .fresh → 20000 ≤ (s.time - e.receipt).toNat →
        (¬ (s.strip.clock = .following ∧ s.strip.followed = some n) →
          exec (.staleExpiry n) s = .next { s with strip := { s.strip with table := stale } })
        ∧ (s.strip.clock = .following → s.strip.followed = some n →
            (bestFreshBut s.strip.table n = none →
              exec (.staleExpiry n) s = .next { s with strip := { s.strip with table := stale, clock := .coasting } })
            ∧ (∀ m, s.strip.source = .station n → bestFreshBut s.strip.table n = some m →
              exec (.staleExpiry n) s = .next { s with
                strip := { s.strip with
                  table := stale, clock := .following, followed := some m, vs := s.strip.table[m].speed,
                  source := .station m, sourceSwitches := satInc s.strip.sourceSwitches },
                cams := each (fun c => { c with trig := { c.trig with sourceChange := true } }) s.cams })))
    ∧ (¬ (e.condition = .stale ∧ 200000 ≤ (s.time - e.receipt).toNat) → exec (.removalExpiry n) s = .next s)
    ∧ (e.condition = .stale → 200000 ≤ (s.time - e.receipt).toNat →
        (¬ (s.strip.clock = .coasting ∧ s.strip.followed = some n) →
          exec (.removalExpiry n) s = .next { s with strip := { s.strip with table := put s.strip.table n .blank } })
        ∧ (s.strip.clock = .coasting → s.strip.followed = some n →
          exec (.removalExpiry n) s = .next { s with
            strip := { s.strip with table := put s.strip.table n .blank, clock := .held, followed := none },
            cams := Vector.ofFn (fun i : Cam => if s.ctl.state.runs = true ∧ s.camEnabled i = true then
                { s.cams[i] with trig := { s.cams[i].trig with fallbackMark := s.cams[i].trig.lastTrigger } }
              else s.cams[i]) }))

/-- After 5 ms of listening an encoder station sets X from the best FRESH entry, extrapolated as R64 says, or to 0, and alignment is
complete (R65). -/
def Obligations.AlignmentEnds : Prop :=
  (∀ (now : Time) (e : BeaconEntry), ((extrapolate now e).toNat : Int) = max 0 (min 281474976710655 ((e.coord.toNat : Int)
    + e.speed.toInt * (min 200000 ((e.age.toNat + (now - e.receipt).toNat) % 2 ^ 32) : Nat) / 163840)))
  ∧ ∀ s : State,
    (s.strip.alignStart = none → exec .alignmentEnd s = .next s)
    ∧ ∀ b : Time, s.strip.alignStart = some b →
      ((s.time - b).toNat < 50000 → exec .alignmentEnd s = .next s)
      ∧ ∀ t : Settings, 50000 ≤ (s.time - b).toNat → s.store.settings = some t →
        ∃ u : StripUnit, exec .alignmentEnd s = .next (recheckBeacon { s with strip := u })
          ∧ u = { s.strip with
              x := u.x, xhat := u.xhat, residue := 0, lastCount := s.strip.count, alignStart := none, aligned := true }
          ∧ (bestFresh s.strip.table = none → u.x = 0)
          ∧ (∀ n, bestFresh s.strip.table = some n → (u.x.toNat : Int) =
              max 0 (min 281474976710655 (((extrapolate s.time s.strip.table[n]).toNat : Int) - t.encoderOffset)))
          ∧ (s.strip.clock ≠ .loc → u.xhat = s.strip.xhat)
          ∧ (s.strip.clock = .loc → (u.xhat.toNat : Int) =
              max 0 (min 281474976710655 ((u.x.toNat : Int) + t.encoderOffset)))

/-! ### The coordinate update -/

/-- A coordinate update (R45 to R47, R64): nothing before its period is over; else the next period begins, the parties take it in
some order, and in every order the strip position unit scales the count, clamps X, and computes the estimate of its clock state. In
every order the strip position unit, the seam unit and each camera take the update once. That the order is any one is the model's choice
(log 4). -/
def Obligations.CoordinateUpdateOfTheStrip : Prop :=
  (∀ o : UpdateOrder, ∃ parties : List (State → State),
    parties.Perm [stripUpdate, seamUpdate, cameraUpdate 0, cameraUpdate 1, cameraUpdate 2, cameraUpdate 3]
    ∧ ∀ s : State, updateInOrder o s = parties.foldl (fun t party => party t) s)
  ∧ ∀ s : State,
    ((s.time - s.strip.updateTimer).toNat < 10 → exec .coordinateUpdate s = .next s)
    ∧ (10 ≤ (s.time - s.strip.updateTimer).toNat → ∃ (o : UpdateOrder) (t : State) (u : StripUnit),
        t = updateInOrder o { s with
          freeCount := s.freeCount + 1, strip := { s.strip with updateTimer := s.strip.updateTimer + 10 } }
        ∧ exec .coordinateUpdate s = .next t ∧ t.strip = { u with xhat := t.strip.xhat }
        ∧ (s.strip.encoder ≠ .good → u = { s.strip with updateTimer := s.strip.updateTimer + 10 })
        ∧ (∀ (c : Settings) (total sum : Int), s.strip.encoder = .good → s.store.settings = some c →
            total = (s.strip.count - s.strip.lastCount).toInt * c.num + s.strip.residue.toNat →
            sum = s.strip.x.toNat + total / (c.den : Int) →
            u = { s.strip with
              updateTimer := s.strip.updateTimer + 10, lastCount := s.strip.count, x := u.x,
              residue := if sum < 0 then 0 else BitVec.ofInt 16 (total % (c.den : Int)),
              underrunClamps := if sum < 0 then satInc s.strip.underrunClamps else s.strip.underrunClamps,
              windowAdvance := s.strip.windowAdvance + ((u.x.toNat : Int) - s.strip.x.toNat) }
            ∧ (u.x.toNat : Int) = max 0 (min 281474976710655 sum))
        ∧ (∀ c : Settings, s.strip.clock = .loc → s.store.settings = some c →
            (t.strip.xhat.toNat : Int) = max 0 (min 281474976710655 ((u.x.toNat : Int) + c.encoderOffset)))
        ∧ (∀ (n : Station) (e : BeaconEntry), s.strip.clock = .following ∨ s.strip.clock = .coasting →
            s.strip.followed = some n → e = s.strip.table[n] →
            (t.strip.xhat.toNat : Int) = max 0 (min 281474976710655 ((e.coord.toNat : Int)
              + e.speed.toInt * (min 200000 ((e.age.toNat + (s.time - e.receipt).toNat) % 2 ^ 32) : Nat) / 163840)))
        ∧ (s.strip.clock = .none ∨ s.strip.clock = .held → t.strip.xhat = s.strip.xhat))

/-- The seam input and the captures (R71 to R74, R80): an edge at or above the lockout end is captured, or lost with both records full;
one below is a bounce. At the update each capture, the older first, is dropped as unplaced, or becomes a seam of the next coil, whose
MARK is requested in JOINING, RUNNING and OPEN. That the entries X̂ has reached leave after the captures is the model's choice (log 33). -/
def Obligations.SeamEdgesAndCaptures : Prop :=
  (∀ s : State, s.ctl.state.runs = false ∨ s.seamStation = false → exec .seamEdge s = .next s)
  ∧ (∀ (t : Settings) (s : State), s.ctl.state.runs = true → s.store.settings = some t → t.seamInput = true →
      (s.strip.xhat.toNat < s.seam.lockoutEnd.toNat →
        exec .seamEdge s = .next { s with seam := { s.seam with bounces := satInc s.seam.bounces } })
      ∧ (s.seam.lockoutEnd.toNat ≤ s.strip.xhat.toNat → ∃ (e : Coord) (c : Capture),
          (e.toNat : Int) = min 281474976710655 ((s.strip.xhat.toNat : Int) + t.lockout)
          ∧ c = { xhat := s.strip.xhat, clock := s.strip.clock }
          ∧ (s.seam.capture0 = none → exec .seamEdge s = .next { s with seam := { s.seam with
              lockoutEnd := e, capture0 := some c, olderIsOne := true } })
          ∧ (s.seam.capture0 ≠ none → s.seam.capture1 = none → exec .seamEdge s = .next { s with seam := { s.seam with
              lockoutEnd := e, capture1 := some c, olderIsOne := false } })
          ∧ (s.seam.capture0 ≠ none → s.seam.capture1 ≠ none → exec .seamEdge s = .next { s with seam := { s.seam with
              lockoutEnd := e, captureOverflows := satInc s.seam.captureOverflows } })))
  ∧ (∀ s : State, s.ctl.state.runs = false → seamUpdate s = s)
  ∧ (∀ (l : List Capture) (s u : State), s.ctl.state.runs = true →
      l = (if s.seam.olderIsOne = true then s.seam.capture1.toList ++ s.seam.capture0.toList
            else s.seam.capture0.toList ++ s.seam.capture1.toList) →
      u = l.foldl (fun v c => processCapture c v) { s with seam := { s.seam with capture0 := none, capture1 := none } } →
      ((∃ i : Cam, s.camEnabled i = true) → seamUpdate s = u)
      ∧ ((∀ i : Cam, s.camEnabled i = false) → seamUpdate s = { u with seam := { u.seam with
          list := u.seam.list.filter (fun e => decide (s.strip.xhat.toNat < e.coord.toNat)) } }))
  ∧ ∀ (c : Capture) (s : State),
      (c.clock = .held ∨ c.clock = .none ∨ s.strip.clock = .held ∨ s.strip.clock = .none →
        processCapture c s = { s with seam := { s.seam with unplaced := satInc s.seam.unplaced } })
      ∧ (∀ t : Settings, c.clock ≠ .held → c.clock ≠ .none → s.strip.clock ≠ .held → s.strip.clock ≠ .none →
          s.store.settings = some t → ∃ r : SeamRecord,
            (r.coord.toNat : Int) = max 0 (min 281474976710655 ((c.xhat.toNat : Int) - t.detectorOffset))
            ∧ r.coil.toNat = min 65535 (s.seam.highest.toNat + 1) ∧ r.origin = s.ctl.number
            ∧ processCapture c s = offerSeam r
                (if s.ctl.state = .joining ∨ s.ctl.state = .running ∨ s.ctl.state = .ringOpen then
                  placeMark r.coord r.coil { s with seam := { s.seam with placed := satInc s.seam.placed } }
                else { s with seam := { s.seam with placed := satInc s.seam.placed } }))

/-- Seam passing (R79, R87): of the entries above the camera's origin and at or below its coordinate whose flag is clear, the highest
gives the camera its coil and origin; the flag is set in it and in every lower entry, and an entry that every enabled camera has
passed leaves the list. -/
def Obligations.CamerasPassSeams : Prop :=
  ∀ (i : Cam) (x : Coord) (s : State) (open_ : SeamEntry → Prop),
    (∀ e, open_ e ↔ e.passed.getLsbD i.val = false ∧ s.cams[i].trig.origin.toNat < e.coord.toNat
      ∧ e.coord.toNat ≤ x.toNat) →
    ((∀ e ∈ s.seam.list, ¬ open_ e) → passSeams i x s = s)
    ∧ (SeamListOrdered s → s.camEnabled i = true → ∀ e ∈ s.seam.list, open_ e →
        (∀ m ∈ s.seam.list, open_ m → m.coord.toNat ≤ e.coord.toNat) →
        ∃ flagged : List SeamEntry,
          passSeams i x s = { s with
            cams := put s.cams i
              { s.cams[i] with trig := { s.cams[i].trig with coil := e.coil, origin := e.coord, nLast := -1 } },
            seam := { s.seam with
              list := flagged.filter (fun m =>
                (List.finRange 4).any (fun j => s.camEnabled j && !m.passed.getLsbD j.val)) } }
          ∧ flagged.length = s.seam.list.length
          ∧ ∀ (k : Nat) (m f : SeamEntry), s.seam.list[k]? = some m → flagged[k]? = some f →
              f = { m with passed := f.passed }
              ∧ ∀ j : Cam, f.passed.getLsbD j.val =
                  (m.passed.getLsbD j.val || (j == i && decide (m.coord.toNat ≤ e.coord.toNat))))

/-- A camera at a coordinate update (R86 to R90, R93): it passes seams, takes its coil-relative coordinate, and a TRIGGERED camera
fires once when a new index is due, unless it is too soon or its FIFO is full; in HELD and NONE it falls back on its own period. A camera
that follows, in coil 0 with its coordinate beyond the top, fires none before its first seam (R92), which goes before R88 and R89 by the
model's reading (log 38). -/
def Obligations.CamerasTrigger : Prop :=
  ∀ (i : Cam) (s : State),
    (s.ctl.state.runs = false ∨ s.camEnabled i = false → cameraUpdate i s = s)
    ∧ ∀ c : CameraSettings, s.ctl.state.runs = true → s.camSettings i = some c → c.enabled = true →
      ((s.strip.clock = .loc ∨ s.strip.clock = .following ∨ s.strip.clock = .coasting) →
        ∃ (x : Coord) (v : State) (t : Trigger) (due : Nat),
          (x.toNat : Int) = max 0 (min 281474976710655 ((s.strip.xhat.toNat : Int) - c.offset))
          ∧ v = passSeams i x s
          ∧ t = { v.cams[i].trig with current := t.current }
          ∧ (t.current.toNat : Int) = max 0 (min 4294967295 ((x.toNat : Int) - t.origin.toNat))
          ∧ due = t.current.toNat / c.pitch
          ∧ ∀ beyond : Prop, (beyond ↔ (s.strip.clock = .following ∨ s.strip.clock = .coasting) ∧ t.coil = 0 ∧ t.origin = 0
              ∧ 4294967295 < x.toNat) →
          (c.free = true ∨ (due : Int) ≤ t.nLast ∨ beyond →
              cameraUpdate i s = { v with cams := put v.cams i { v.cams[i] with trig := t } })
          ∧ ∀ (passed : Trigger) (soon : Prop), c.free = false → ¬ beyond → t.nLast < due →
              passed = { t with
                nLast := due, skipped := satAdd t.skipped ((due : Int) - t.nLast - 1).toNat } →
              (soon ↔ ∃ l, t.lastTrigger = some l ∧ (s.time - l).toNat < c.minInterval) →
              (soon → cameraUpdate i s = { v with cams := put v.cams i { v.cams[i] with
                  trig := { passed with overspeed := satInc t.overspeed } } })
              ∧ (¬ soon → 4 ≤ t.fifo.length → cameraUpdate i s = { v with cams := put v.cams i { v.cams[i] with
                  trig := { passed with suppressed := satInc t.suppressed } } })
              ∧ (¬ soon → t.fifo.length < 4 → cameraUpdate i s = { v with cams := put v.cams i { v.cams[i] with
                  trig := { passed with
                    pulse := some s.time, lastTrigger := some s.time, issued := satInc t.issued, sourceChange := false,
                    fifo := t.fifo ++ [{
                      fired := s.time,
                      tags := {
                        coil := t.coil, nominal := BitVec.ofNat 32 (due * c.pitch),
                        flags := (if s.strip.clock = .coasting then 0x0008 else 0)
                          ||| (if t.sourceChange = true then 0x0020 else 0) } }] } } }))
      ∧ ((s.strip.clock = .held ∨ s.strip.clock = .none) → ∀ (t : Trigger) (due : Prop), t = s.cams[i].trig →
          (due ↔ c.free = false ∧ 0 < c.fallback ∧ ∀ m, t.fallbackMark = some m → c.fallback ≤ (s.time - m).toNat) →
          (¬ due → cameraUpdate i s = s)
          ∧ (due → 4 ≤ t.fifo.length → cameraUpdate i s = { s with cams := put s.cams i { s.cams[i] with
              trig := { t with fallbackMark := some s.time, suppressed := satInc t.suppressed } } })
          ∧ (due → t.fifo.length < 4 → cameraUpdate i s = { s with cams := put s.cams i { s.cams[i] with
              trig := { t with
                fallbackMark := some s.time, pulse := some s.time, lastTrigger := some s.time, issued := satInc t.issued,
                sourceChange := false,
                fifo := t.fifo ++ [{
                  fired := s.time,
                  tags := {
                    coil := t.coil, nominal := t.current,
                    flags := 0x0010 ||| (if t.sourceChange = true then 0x0020 else 0) } }] } } }))

/-! ### Cameras -/

/-- The trigger pulse ends 1 µs after it began, the last trigger time lapses after 65,535 units (R90), and a FIFO head that has timed
out is counted as missing and its substitute made if enabled, then the next one if its time is reached too (R97). That the
expired records go in one event is the model's choice (log 29). A substitute line is a record of the nominal output count of fill
pattern values with SUBSTITUTED (R111). -/
def Obligations.TriggerTimers : Prop :=
  (∀ (i : Cam) (c : CameraSettings) (tags : Tags) (s : State), substituteLine i c tags s =
    makeRecord i { tags with flags := tags.flags ||| 0x0001 } c.deep
      ((List.range c.nominalCount).map (fun j => fillValue c (0 + j))) 0 s)
  ∧ ∀ (i : Cam) (s : State) (t : Trigger), t = s.cams[i].trig →
    exec (.triggerPulseEnd i) s = .next (if (∃ b, t.pulse = some b ∧ 10 ≤ (s.time - b).toNat) then
      { s with cams := put s.cams i { s.cams[i] with trig := { t with pulse := none } } } else s)
    ∧ exec (.lastTriggerTimeLapse i) s = .next (if (∃ b, t.lastTrigger = some b ∧ 65535 ≤ (s.time - b).toNat) then
      { s with cams := put s.cams i { s.cams[i] with trig := { t with lastTrigger := none } } } else s)
    ∧ (s.ctl.state.runs = false ∨ s.camEnabled i = false ∨ t.fifo = [] → exec (.triggerTimeout i) s = .next s)
    ∧ ∀ (c : CameraSettings) (r : TriggerRecord) (rest : List TriggerRecord) (u v : State), s.camSettings i = some c →
        t.fifo = r :: rest →
        (c.free = true ∨ (s.time - r.fired).toNat < c.timeout → exec (.triggerTimeout i) s = .next s)
        ∧ (s.ctl.state.runs = true → c.enabled = true → c.free = false → c.timeout ≤ (s.time - r.fired).toNat →
            u = { s with cams := put s.cams i { s.cams[i] with
              trig := { t with fifo := rest, missing := satInc t.missing } } } →
            v = (if c.substitute = true then substituteLine i c r.tags u else u) →
            ((∀ q, rest.head? = some q → (s.time - q.fired).toNat < c.timeout) → exec (.triggerTimeout i) s = .next v)
            ∧ (∀ q, rest.head? = some q → c.timeout ≤ (s.time - q.fired).toNat →
                exec (.triggerTimeout i) s = exec (.triggerTimeout i) v))

/-- Line-valid and the dark watch (R102, R104): a rising edge begins a line at a port that is not OFF, and brings a DARK port to
SIZING; 10 ms without an edge bring a port to DARK. That its mismatched length stands there is the model's choice (log 35). -/
def Obligations.LineValidAndDarkWatch : Prop :=
  ∀ (i : Cam) (s : State) (p : CameraPort), p = s.cams[i].port →
    (p.lineValid = true → exec (.lineValidRise i) s = .next s)
    ∧ (p.lineValid = false → ∃ q : CameraPort,
        exec (.lineValidRise i) s = .next { s with cams := put s.cams i { s.cams[i] with port := q } }
        ∧ (s.ctl.state.runs = false ∨ p.state = .off → q = { p with lineValid := true })
        ∧ (s.ctl.state.runs = true → p.state = .dark → q = { p with
            lineValid := true, state := .sizing, run := none, darkWatch := some s.time,
            line := some { count := 0, pixels := [], clips := 0 } })
        ∧ (s.ctl.state.runs = true → p.state ≠ .dark → p.state ≠ .off → q = { p with
            lineValid := true, darkWatch := some s.time, line := some { count := 0, pixels := [], clips := 0 } }))
    ∧ exec (.darkExpiry i) s = .next
        (if s.ctl.state.runs = true ∧ p.state ≠ .off ∧ p.state ≠ .dark
            ∧ (∃ b, p.darkWatch = some b ∧ 100000 ≤ (s.time - b).toNat) then
          { s with cams := put s.cams i { s.cams[i] with port := { p with
            state := .dark, line := none, run := none, deviation := 0, darkWatch := none } } }
        else s)

/-- A completed line (R94, R96, R102, R108 to R111): a TRIGGERED camera pairs it with its FIFO head, or discards it as unsolicited; a
FREE camera tags it itself. A LOCKED port makes a conditioned record of its output count, SIZING and MISMATCH a substitute, and the port
bookkeeping follows. The fill pattern, the output count and the length up to which a line is conditioned are as R101, R102, R109 and
R110 give them. -/
def Obligations.LinesComplete : Prop :=
  (∀ (c : CameraSettings) (n : Nat),
    (c.fill = .black → fillValue c n = c.blackValue)
    ∧ (c.fill = .flat → fillValue c n = if c.deep = true then 2048 else 128)
    ∧ (c.fill = .ramp → fillValue c n = if c.deep = true then n % 4096 else n % 256)
    ∧ ∀ len, outputCount c len = min (c.windowStart + (if c.windowWidth = 0 then len else c.windowWidth)) len - c.windowStart)
  ∧ (∀ p : CameraPort, (p.state = .locked → conditionCap p = p.locked) ∧ (p.state ≠ .locked → conditionCap p = none))
  ∧ ∀ (i : Cam) (pixels : List (BitVec 12)) (s u : State) (p : CameraPort), p = s.cams[i].port →
    (p.lineValid = false → exec (.lineCompletion i pixels) s = .next s)
    ∧ (p.lineValid = true →
        (s.ctl.state.runs = false ∨ p.state = .off ∨ p.state = .dark → exec (.lineCompletion i pixels) s =
          .next { s with cams := put s.cams i { s.cams[i] with port := { p with lineValid := false } } })
        ∧ (s.ctl.state.runs = true → p.state ≠ .off → p.state ≠ .dark →
            (p.line = none → exec (.lineCompletion i pixels) s = .next { s with cams := put s.cams i { s.cams[i] with
              port := { p with lineValid := false, darkWatch := some s.time } } })
            ∧ ∀ (c : CameraSettings) (l m : LineRx) (t : Trigger) (record : Tags → State → State), s.camSettings i = some c →
              p.line = some l → m = pixels.foldl (deliverPixel c (conditionCap p)) l → t = s.cams[i].trig →
              u = { s with cams := put s.cams i { s.cams[i] with
                port := { p with lineValid := false, darkWatch := some s.time, line := none, lastLength := m.count } } } →
              (∀ tags v, record tags v =
                if p.state = .locked then
                  match p.locked with
                  | none => v
                  | some len =>
                    makeRecord i
                      { tags with flags := tags.flags ||| ((if m.count < len then 0x0002 else 0)
                          ||| (if len < m.count then 0x0004 else 0) ||| (if c.peak < m.clips then 0x0080 else 0)) }
                      c.deep
                      (m.pixels ++ (List.range (outputCount c len - m.pixels.length)).map
                        (fun j => fillValue c (m.pixels.length + j)))
                      m.clips v
                else
                  makeRecord i { tags with flags := tags.flags ||| 0x0001 } c.deep
                    ((List.range c.nominalCount).map (fun j => fillValue c (0 + j))) 0 v) →
              (c.free = false → t.fifo = [] → exec (.lineCompletion i pixels) s =
                .next ((u.onTrig i (fun t => { t with unsolicited := satInc t.unsolicited })).onPort i (bookkeep c m.count)))
              ∧ (∀ r rest, c.free = false → t.fifo = r :: rest → exec (.lineCompletion i pixels) s =
                .next ((record r.tags (u.onTrig i (fun t => { t with fifo := rest }))).onPort i (bookkeep c m.count)))
              ∧ (c.free = true → exec (.lineCompletion i pixels) s =
                .next ((record
                    { coil := t.coil, nominal := t.current,
                      flags := 0x0040 ||| ((if s.strip.clock = .coasting then 0x0008 else 0)
                        ||| (if s.strip.clock = .held ∨ s.strip.clock = .none then 0x0010 else 0)
                        ||| (if t.sourceChange = true then 0x0020 else 0)) }
                    (u.onTrig i (fun t => { t with sourceChange := false }))).onPort i (bookkeep c m.count)))))

/-- Port bookkeeping (R105 to R107): four equal lengths in a row lock a port or find a mismatch, another length sends a MISMATCH port
back to SIZING, and eight deviations in a row a LOCKED one. That the locked length then
stands, and the mismatched length outside MISMATCH, is the model's choice (log 35). -/
def Obligations.PortsLockAndLose : Prop :=
  ∀ (c : CameraSettings) (len : Nat) (p : CameraPort),
    (p.state = .off ∨ p.state = .dark → bookkeep c len p = p)
    ∧ (∀ n, p.state = .sizing →
        (∀ r, p.run = some r → r.length = len → n = r.count + 1) →
        ((∀ r, p.run = some r → r.length ≠ len) → n = 1) →
        (n < 4 → bookkeep c len p = { p with run := some { length := len, count := n } })
        ∧ (4 ≤ n →
            ((c.lengthCheck = true ∧ len = c.nominal)
                ∨ (c.lengthCheck = false ∧ c.windowStart < len ∧ len ≤ 16384) →
              bookkeep c len p = { p with state := .locked, locked := some len, deviation := 0, run := none })
            ∧ ((c.lengthCheck = true ∧ len ≠ c.nominal)
                ∨ (c.lengthCheck = false ∧ (len ≤ c.windowStart ∨ 16384 < len)) →
              bookkeep c len p = { p with state := .mismatch, mismatched := some len, run := none })))
    ∧ (p.state = .mismatch → bookkeep c len p = if p.mismatched = some len then p
        else { p with state := .sizing, run := some { length := len, count := 1 } })
    ∧ (p.state = .locked →
        (p.locked = some len → bookkeep c len p = { p with deviation := 0 })
        ∧ (p.locked ≠ some len → p.deviation < 7 → bookkeep c len p = { p with deviation := p.deviation + 1 })
        ∧ (p.locked ≠ some len → 7 ≤ p.deviation → bookkeep c len p =
            { p with state := .sizing, run := some { length := len, count := 1 }, deviation := 0 }))

/-- The pixels of a line (R102, R109, R112, R113): the count stops at 65,535; a port that is not LOCKED keeps no pixel; at a LOCKED port
the pixels of the window are conditioned in order, and those the clamp changed are clip-counted. -/
def Obligations.PixelsAreConditioned : Prop :=
  (∀ (c : CameraSettings) (pixels : List (BitVec 12)) (m : LineRx),
      m = pixels.foldl (deliverPixel c none) { count := 0, pixels := [], clips := 0 } →
      m = { count := min 65535 pixels.length, pixels := [], clips := 0 })
  ∧ (∀ (c : CameraSettings) (len start stop : Nat) (pixels : List (BitVec 12)) (kept : List Nat) (m : LineRx),
      start = c.windowStart → stop = min (start + (if c.windowWidth = 0 then len else c.windowWidth)) len → len ≤ 16384 →
      m = pixels.foldl (deliverPixel c (some len)) { count := 0, pixels := [], clips := 0 } →
      kept = ((pixels.take stop).drop start).map (fun x => x.toNat % 2 ^ c.inputDepth) →
      m.count = min 65535 pixels.length ∧ m.pixels = kept.map (conditioned c)
        ∧ m.clips = min 65535 (kept.filter (clipped c)).length)
  ∧ (∀ (c : CameraSettings) (p : Nat) (scaled full v : Int), c.low ≤ c.high →
      scaled = ((((p * 2 ^ (12 - c.inputDepth) : Nat) : Int) - c.black) * c.gain + 128) / 256 + c.lift →
      full = (if c.deep = true then scaled else (scaled + 8) / 16) → v = max (c.low : Int) (min (c.high : Int) full) →
      (conditioned c p : Int) = v ∧ (clipped c p = true ↔ v ≠ full))

/-- The record of a line and its admission (R114, R117 to R122, R128): the record takes the line serial and is counted; outside RUNNING
and OPEN it is refused; past the thin mark only each k-th is let through; a line that would overfill the queue is refused; any other
is appended whole as its segments. The occupancy is the sum of the parcel sizes, the thin factor the held one of the camera, and a pixel
is one payload byte, or two with the more significant first. -/
def Obligations.LinesAreAdmitted : Prop :=
  (∀ q : List LineParcel, lineOccupancy q = (q.map (fun p => p.payload.length + 32)).sum)
  ∧ (∀ (i : Cam) (s : State) (c : CameraSettings), s.camSettings i = some c → thinOf s i = c.thin)
  ∧ (∀ deep : Bool, payloadOf deep [] = [] ∧ ∀ v rest, payloadOf deep (v :: rest) =
      (if deep = true then [BitVec.ofNat 8 (v / 256), BitVec.ofNat 8 v] else [BitVec.ofNat 8 v]) ++ payloadOf deep rest)
  ∧ ∀ (i : Cam) (tags : Tags) (deep : Bool) (pixels : List Nat) (clips : Nat) (s u : State) (a : Admission)
    (bytes occupancy segments k : Nat),
    a = s.cams[i].adm → bytes = (if deep = true then 2 * pixels.length else pixels.length) →
    segments = (bytes + 2047) / 2048 → occupancy = lineOccupancy s.seg.lines → k = thinOf s i →
    u = s.onPort i (fun p => { p with serial := p.serial + 1, produced := satInc p.produced }) →
    (¬ (s.ctl.state = .running ∨ s.ctl.state = .ringOpen) → makeRecord i tags deep pixels clips s =
      u.onAdm i (fun a => { a with refused := satInc a.refused }))
    ∧ (s.ctl.state = .running ∨ s.ctl.state = .ringOpen → ∀ (phase : Nat) (thinned : Prop),
        phase = (if occupancy < 196608 then 0 else if 1 < k then (a.phase + 1) % k else a.phase) →
        (thinned ↔ 196608 ≤ occupancy ∧ 1 < k ∧ a.phase ≠ 0) →
        (thinned → makeRecord i tags deep pixels clips s = u.onAdm i (fun a => { a with
          phase := phase, thinned := satInc a.thinned, thinnedSince := satInc a.thinnedSince }))
        ∧ (¬ thinned → 262144 < occupancy + (bytes + 32 * segments) → makeRecord i tags deep pixels clips s =
          u.onAdm i (fun a => { a with phase := phase, refused := satInc a.refused }))
        ∧ (¬ thinned → occupancy + (bytes + 32 * segments) ≤ 262144 → ∃ (v : State) (cut : List LineParcel),
            v = u.onAdm i (fun a => { a with phase := phase, admitted := satInc a.admitted, thinnedSince := 0 })
            ∧ makeRecord i tags deep pixels clips s =
                freeWhileIdle { v with seg := { v.seg with lines := v.seg.lines ++ cut } }
            ∧ cut.length = segments ∧ cut.flatMap LineParcel.payload = payloadOf deep pixels
            ∧ ∀ (j : Nat) (p : LineParcel), cut[j]? = some p →
                p = { header := { source := s.ctl.number, key := s.originKey }, camera := i, serial := s.cams[i].port.serial,
                      segIndex := j, segCount := segments, coil := tags.coil, nominal := tags.nominal, flags := tags.flags,
                      depth := if deep = true then 16 else 8,
                      segPixels := if deep = true then p.payload.length / 2 else p.payload.length,
                      clips := BitVec.ofNat 16 clips, thinnedSince := a.thinnedSince, payload := p.payload }
                ∧ (j + 1 < segments → p.payload.length = 2048)
                ∧ (j + 1 = segments → 1 ≤ p.payload.length ∧ p.payload.length ≤ 2048)))

/-! ### The ease unit -/

/-- The ease window (R131, R133 to R136, R140, R141): the own rate is smoothed, the station starts or stops originating, every second
window of an originating station requests an EASE, and the window counters begin again at 0. -/
def Obligations.EaseWindowCloses : Prop :=
  ∀ s : State,
    ((s.time - s.ease.windowTimer).toNat < 1000 → exec .easeWindowExpiry s = .next s)
    ∧ (1000 ≤ (s.time - s.ease.windowTimer).toNat →
        ∀ (rate : Word16) (starts stops : Bool) (e : EaseUnit) (u v : State),
          (rate.toNat : Int) = max 0 (min 65535
            ((s.ease.rate.toNat : Int) + (((s.ease.bytes / 16 : Nat) : Int) - s.ease.rate.toNat) / 8)) →
          (starts = true ↔ s.ease.originating = false ∧ (s.ctl.state = .running ∨ s.ctl.state = .ringOpen)
            ∧ 131072 ≤ lineOccupancy s.seg.lines ∧ 0 < s.ease.waiting ∧ s.ease.waiting ≤ 2 * s.ease.blocked) →
          (stops = true ↔ s.ease.originating = true ∧ lineOccupancy s.seg.lines < 65536) →
          (starts = true → e = { s.ease with
            windowTimer := s.ease.windowTimer + 1000, rate := rate, originating := true, phase := true }) →
          (stops = true → e = { s.ease with
            windowTimer := s.ease.windowTimer + 1000, rate := rate, originating := false, phase := false }) →
          (starts = false → stops = false → e = { s.ease with
            windowTimer := s.ease.windowTimer + 1000, rate := rate,
            phase := if s.ease.originating = true then !s.ease.phase else s.ease.phase }) →
          u = (if starts = true ∨ (s.ease.originating = true ∧ stops = false ∧ s.ease.phase = false) then
                placeRequest (.ease (BitVec.ofNat 16 (max rate.toNat 64))) { s with ease := e }
              else { s with ease := e }) →
          v = { u with ease := { u.ease with bytes := 0, waiting := 0, blocked := 0 } } →
          exec .easeWindowExpiry s = .next
            (if limiterAllows u.ease = false ∧ limiterAllows v.ease = true ∧ v.seg.lines ≠ [] then freeWhileIdle v else v))

/-! ### What every step keeps -/

/-- Every step keeps the transit buffer within 16,384 bytes (R12), the line queue within 262,144 bytes (R119), the control queue within
its places (R124), and the pending-return list, the illegal-step list, the trigger FIFOs and the delivery queue within theirs; no
transit parcel waits at an idle port (R14, R15), and, by the model's choice of its events (log 12), the receiver holds no more than a
start delimiter between events. -/
def Obligations.StepsKeepTheBuffers : Prop :=
  Kept (fun s => TransitWithin s ∧ IdlePortDrained s ∧ ReceptionFresh s ∧ LinesWithin s ∧ ControlWithin s ∧ ListsWithin s)

/-- Every step keeps the seam list at 8 entries at most, in ascending order, no two within 2,000 su (R77). -/
def Obligations.StepsKeepTheSeamList : Prop := Kept SeamListOrdered

/-- Every step keeps every block of the line store in one place, at most one context for a stream, the contexts in part, the word
position within the head record, and the line store canonical (R148, R149, R155, R164). -/
def Obligations.StepsKeepTheTakeOffUnit : Prop :=
  Kept (fun s => BlocksAccounted s ∧ OneContextPerStream s ∧ ContextsInPart s ∧ PositionWithin s ∧ StoreCanonical s)

/-- Every step keeps the strip clock state, the encoder state, the position source and the followed entry in agreement (Table 3.8). -/
def Obligations.StepsKeepTheStripClock : Prop := Kept ClockSound

/-- Every step keeps the station state, the settings, the configuration-valid flag, the EEPROM read and the delivery port in
agreement (Table 2.1). That no settings are held in PASS_ONLY is the model's choice (log 17). -/
def Obligations.StepsKeepTheModes : Prop := Kept ModesSound

/-- Every step keeps LINES_PRODUCED equal to LINES_ADMITTED + LINES_THINNED + LINES_REFUSED for each camera, while none has saturated
(R128). -/
def Obligations.StepsKeepTheLineBalance : Prop := Kept LinesBalance

/-- The state after reset has every one of these properties. -/
def Obligations.ResetHasTheInvariants : Prop :=
  TransitWithin State.reset ∧ IdlePortDrained State.reset ∧ ReceptionFresh State.reset ∧ LinesWithin State.reset
    ∧ ControlWithin State.reset ∧ ListsWithin State.reset ∧ SeamListOrdered State.reset ∧ BlocksAccounted State.reset
    ∧ OneContextPerStream State.reset ∧ ContextsInPart State.reset ∧ PositionWithin State.reset ∧ StoreCanonical State.reset
    ∧ ClockSound State.reset ∧ ModesSound State.reset ∧ LinesBalance State.reset
end

