-- ==== Sys2Proof/Laws/Arith.lean ====
section
/-! SUPPORT. The value of each clamped and each saturating operation. -/
namespace Sys2Proof.Machine

theorem coordOf_toNat (x : Int) : ((coordOf x).toNat : Int) = max 0 (min 281474976710655 x) := by
  unfold coordOf clampInt
  have h : (max 0 (min 281474976710655 x)) % ((2 ^ 48 : Nat) : Int) = max 0 (min 281474976710655 x) := by
    apply Int.emod_eq_of_lt <;> omega
  rw [BitVec.toNat_ofInt, h]
  omega

theorem coilCoordOf_toNat (x : Int) : ((coilCoordOf x).toNat : Int) = max 0 (min 4294967295 x) := by
  unfold coilCoordOf clampInt
  have h : (max 0 (min 4294967295 x)) % ((2 ^ 32 : Nat) : Int) = max 0 (min 4294967295 x) := by
    apply Int.emod_eq_of_lt <;> omega
  rw [BitVec.toNat_ofInt, h]
  omega

theorem speedOf_toInt (x : Int) : (speedOf x).toInt = max (-8388607) (min 8388607 x) := by
  unfold speedOf clampInt
  rw [BitVec.toInt_ofInt, Int.bmod_eq_of_le] <;> omega

theorem satAdd_toNat {n : Nat} (c : BitVec n) (k : Nat) : (satAdd c k).toNat = min (c.toNat + k) (2 ^ n - 1) := by
  unfold satAdd
  rw [BitVec.toNat_ofNat, Nat.mod_eq_of_lt]
  have := Nat.two_pow_pos n
  omega

theorem satInc_toNat {n : Nat} (c : BitVec n) : (satInc c).toNat = min (c.toNat + 1) (2 ^ n - 1) := satAdd_toNat c 1

theorem clampInt_mem {lo hi : Int} (h : lo ≤ hi) (x : Int) : lo ≤ clampInt lo hi x ∧ clampInt lo hi x ≤ hi := by
  unfold clampInt
  omega

end Sys2Proof.Machine
end

