-- ==== Sys2Proof/Laws/State.lean ====
section
/-! SUPPORT. Field by field: what each whole-state update leaves as it was, and what it puts in its place. -/
namespace Sys2Proof.Machine

/-! ### Updates of one block -/

/-- `State.bump` changes nothing outside `freeCount`. -/
@[simp] theorem State.bump_rest (s : State) :
    (s.bump).pending = s.pending ∧ (s.bump).time = s.time ∧ (s.bump).ring = s.ring ∧ (s.bump).ctl = s.ctl
      ∧ (s.bump).strip = s.strip ∧ (s.bump).seam = s.seam ∧ (s.bump).cams = s.cams ∧ (s.bump).seg = s.seg
      ∧ (s.bump).ease = s.ease ∧ (s.bump).take = s.take ∧ (s.bump).dlv = s.dlv ∧ (s.bump).svc = s.svc
      ∧ (s.bump).store = s.store :=
  ⟨rfl, rfl, rfl, rfl, rfl, rfl, rfl, rfl, rfl, rfl, rfl, rfl, rfl⟩

@[simp] theorem State.bump_self (s : State) : s.bump.freeCount = s.freeCount + 1 := rfl

/-- `State.onCam` changes nothing outside `cams`. -/
@[simp] theorem State.onCam_rest (s : State) (i : Cam) (f : Camera → Camera) :
    (s.onCam i f).pending = s.pending ∧ (s.onCam i f).freeCount = s.freeCount ∧ (s.onCam i f).time = s.time
      ∧ (s.onCam i f).ring = s.ring ∧ (s.onCam i f).ctl = s.ctl ∧ (s.onCam i f).strip = s.strip
      ∧ (s.onCam i f).seam = s.seam ∧ (s.onCam i f).seg = s.seg ∧ (s.onCam i f).ease = s.ease
      ∧ (s.onCam i f).take = s.take ∧ (s.onCam i f).dlv = s.dlv ∧ (s.onCam i f).svc = s.svc
      ∧ (s.onCam i f).store = s.store :=
  ⟨rfl, rfl, rfl, rfl, rfl, rfl, rfl, rfl, rfl, rfl, rfl, rfl, rfl⟩

@[simp] theorem State.onCam_self (s : State) (i : Cam) (f : Camera → Camera) : (s.onCam i f).cams = change s.cams i f := rfl

/-- `State.onTrig` changes nothing outside `cams`. -/
@[simp] theorem State.onTrig_rest (s : State) (i : Cam) (f : Trigger → Trigger) :
    (s.onTrig i f).pending = s.pending ∧ (s.onTrig i f).freeCount = s.freeCount ∧ (s.onTrig i f).time = s.time
      ∧ (s.onTrig i f).ring = s.ring ∧ (s.onTrig i f).ctl = s.ctl ∧ (s.onTrig i f).strip = s.strip
      ∧ (s.onTrig i f).seam = s.seam ∧ (s.onTrig i f).seg = s.seg ∧ (s.onTrig i f).ease = s.ease
      ∧ (s.onTrig i f).take = s.take ∧ (s.onTrig i f).dlv = s.dlv ∧ (s.onTrig i f).svc = s.svc
      ∧ (s.onTrig i f).store = s.store :=
  ⟨rfl, rfl, rfl, rfl, rfl, rfl, rfl, rfl, rfl, rfl, rfl, rfl, rfl⟩

@[simp] theorem State.onTrig_self (s : State) (i : Cam) (f : Trigger → Trigger) : (s.onTrig i f).cams = change s.cams i (fun c => { c with trig := f c.trig }) := rfl

/-- `State.onPort` changes nothing outside `cams`. -/
@[simp] theorem State.onPort_rest (s : State) (i : Cam) (f : CameraPort → CameraPort) :
    (s.onPort i f).pending = s.pending ∧ (s.onPort i f).freeCount = s.freeCount ∧ (s.onPort i f).time = s.time
      ∧ (s.onPort i f).ring = s.ring ∧ (s.onPort i f).ctl = s.ctl ∧ (s.onPort i f).strip = s.strip
      ∧ (s.onPort i f).seam = s.seam ∧ (s.onPort i f).seg = s.seg ∧ (s.onPort i f).ease = s.ease
      ∧ (s.onPort i f).take = s.take ∧ (s.onPort i f).dlv = s.dlv ∧ (s.onPort i f).svc = s.svc
      ∧ (s.onPort i f).store = s.store :=
  ⟨rfl, rfl, rfl, rfl, rfl, rfl, rfl, rfl, rfl, rfl, rfl, rfl, rfl⟩

@[simp] theorem State.onPort_self (s : State) (i : Cam) (f : CameraPort → CameraPort) : (s.onPort i f).cams = change s.cams i (fun c => { c with port := f c.port }) := rfl

/-- `State.onAdm` changes nothing outside `cams`. -/
@[simp] theorem State.onAdm_rest (s : State) (i : Cam) (f : Admission → Admission) :
    (s.onAdm i f).pending = s.pending ∧ (s.onAdm i f).freeCount = s.freeCount ∧ (s.onAdm i f).time = s.time
      ∧ (s.onAdm i f).ring = s.ring ∧ (s.onAdm i f).ctl = s.ctl ∧ (s.onAdm i f).strip = s.strip
      ∧ (s.onAdm i f).seam = s.seam ∧ (s.onAdm i f).seg = s.seg ∧ (s.onAdm i f).ease = s.ease
      ∧ (s.onAdm i f).take = s.take ∧ (s.onAdm i f).dlv = s.dlv ∧ (s.onAdm i f).svc = s.svc
      ∧ (s.onAdm i f).store = s.store :=
  ⟨rfl, rfl, rfl, rfl, rfl, rfl, rfl, rfl, rfl, rfl, rfl, rfl, rfl⟩

@[simp] theorem State.onAdm_self (s : State) (i : Cam) (f : Admission → Admission) : (s.onAdm i f).cams = change s.cams i (fun c => { c with adm := f c.adm }) := rfl

/-- `onRing` changes nothing outside `ring`. -/
@[simp] theorem onRing_rest (f : RingPort → RingPort) (s : State) :
    (onRing f s).pending = s.pending ∧ (onRing f s).freeCount = s.freeCount ∧ (onRing f s).time = s.time
      ∧ (onRing f s).ctl = s.ctl ∧ (onRing f s).strip = s.strip ∧ (onRing f s).seam = s.seam
      ∧ (onRing f s).cams = s.cams ∧ (onRing f s).seg = s.seg ∧ (onRing f s).ease = s.ease
      ∧ (onRing f s).take = s.take ∧ (onRing f s).dlv = s.dlv ∧ (onRing f s).svc = s.svc
      ∧ (onRing f s).store = s.store :=
  ⟨rfl, rfl, rfl, rfl, rfl, rfl, rfl, rfl, rfl, rfl, rfl, rfl, rfl⟩

@[simp] theorem onRing_self (f : RingPort → RingPort) (s : State) : (onRing f s).ring = f s.ring := rfl

/-- `onStrip` changes nothing outside `strip`. -/
@[simp] theorem onStrip_rest (f : StripUnit → StripUnit) (s : State) :
    (onStrip f s).pending = s.pending ∧ (onStrip f s).freeCount = s.freeCount ∧ (onStrip f s).time = s.time
      ∧ (onStrip f s).ring = s.ring ∧ (onStrip f s).ctl = s.ctl ∧ (onStrip f s).seam = s.seam
      ∧ (onStrip f s).cams = s.cams ∧ (onStrip f s).seg = s.seg ∧ (onStrip f s).ease = s.ease
      ∧ (onStrip f s).take = s.take ∧ (onStrip f s).dlv = s.dlv ∧ (onStrip f s).svc = s.svc
      ∧ (onStrip f s).store = s.store :=
  ⟨rfl, rfl, rfl, rfl, rfl, rfl, rfl, rfl, rfl, rfl, rfl, rfl, rfl⟩

@[simp] theorem onStrip_self (f : StripUnit → StripUnit) (s : State) : (onStrip f s).strip = f s.strip := rfl

/-- `onSeam` changes nothing outside `seam`. -/
@[simp] theorem onSeam_rest (f : SeamUnit → SeamUnit) (s : State) :
    (onSeam f s).pending = s.pending ∧ (onSeam f s).freeCount = s.freeCount ∧ (onSeam f s).time = s.time
      ∧ (onSeam f s).ring = s.ring ∧ (onSeam f s).ctl = s.ctl ∧ (onSeam f s).strip = s.strip
      ∧ (onSeam f s).cams = s.cams ∧ (onSeam f s).seg = s.seg ∧ (onSeam f s).ease = s.ease
      ∧ (onSeam f s).take = s.take ∧ (onSeam f s).dlv = s.dlv ∧ (onSeam f s).svc = s.svc
      ∧ (onSeam f s).store = s.store :=
  ⟨rfl, rfl, rfl, rfl, rfl, rfl, rfl, rfl, rfl, rfl, rfl, rfl, rfl⟩

@[simp] theorem onSeam_self (f : SeamUnit → SeamUnit) (s : State) : (onSeam f s).seam = f s.seam := rfl

/-- `onEase` changes nothing outside `ease`. -/
@[simp] theorem onEase_rest (f : EaseUnit → EaseUnit) (s : State) :
    (onEase f s).pending = s.pending ∧ (onEase f s).freeCount = s.freeCount ∧ (onEase f s).time = s.time
      ∧ (onEase f s).ring = s.ring ∧ (onEase f s).ctl = s.ctl ∧ (onEase f s).strip = s.strip
      ∧ (onEase f s).seam = s.seam ∧ (onEase f s).cams = s.cams ∧ (onEase f s).seg = s.seg
      ∧ (onEase f s).take = s.take ∧ (onEase f s).dlv = s.dlv ∧ (onEase f s).svc = s.svc
      ∧ (onEase f s).store = s.store :=
  ⟨rfl, rfl, rfl, rfl, rfl, rfl, rfl, rfl, rfl, rfl, rfl, rfl, rfl⟩

@[simp] theorem onEase_self (f : EaseUnit → EaseUnit) (s : State) : (onEase f s).ease = f s.ease := rfl

/-- `onTake` changes nothing outside `take`. -/
@[simp] theorem onTake_rest (f : TakeOffUnit → TakeOffUnit) (s : State) :
    (onTake f s).pending = s.pending ∧ (onTake f s).freeCount = s.freeCount ∧ (onTake f s).time = s.time
      ∧ (onTake f s).ring = s.ring ∧ (onTake f s).ctl = s.ctl ∧ (onTake f s).strip = s.strip
      ∧ (onTake f s).seam = s.seam ∧ (onTake f s).cams = s.cams ∧ (onTake f s).seg = s.seg
      ∧ (onTake f s).ease = s.ease ∧ (onTake f s).dlv = s.dlv ∧ (onTake f s).svc = s.svc
      ∧ (onTake f s).store = s.store :=
  ⟨rfl, rfl, rfl, rfl, rfl, rfl, rfl, rfl, rfl, rfl, rfl, rfl, rfl⟩

@[simp] theorem onTake_self (f : TakeOffUnit → TakeOffUnit) (s : State) : (onTake f s).take = f s.take := rfl

/-- `onSvc` changes nothing outside `svc`. -/
@[simp] theorem onSvc_rest (f : ServiceLine → ServiceLine) (s : State) :
    (onSvc f s).pending = s.pending ∧ (onSvc f s).freeCount = s.freeCount ∧ (onSvc f s).time = s.time
      ∧ (onSvc f s).ring = s.ring ∧ (onSvc f s).ctl = s.ctl ∧ (onSvc f s).strip = s.strip ∧ (onSvc f s).seam = s.seam
      ∧ (onSvc f s).cams = s.cams ∧ (onSvc f s).seg = s.seg ∧ (onSvc f s).ease = s.ease ∧ (onSvc f s).take = s.take
      ∧ (onSvc f s).dlv = s.dlv ∧ (onSvc f s).store = s.store :=
  ⟨rfl, rfl, rfl, rfl, rfl, rfl, rfl, rfl, rfl, rfl, rfl, rfl, rfl⟩

@[simp] theorem onSvc_self (f : ServiceLine → ServiceLine) (s : State) : (onSvc f s).svc = f s.svc := rfl

/-- `onRoll` changes nothing outside `ctl`. -/
@[simp] theorem onRoll_rest (n : Station) (f : RollEntry → RollEntry) (s : State) :
    (onRoll n f s).pending = s.pending ∧ (onRoll n f s).freeCount = s.freeCount ∧ (onRoll n f s).time = s.time
      ∧ (onRoll n f s).ring = s.ring ∧ (onRoll n f s).strip = s.strip ∧ (onRoll n f s).seam = s.seam
      ∧ (onRoll n f s).cams = s.cams ∧ (onRoll n f s).seg = s.seg ∧ (onRoll n f s).ease = s.ease
      ∧ (onRoll n f s).take = s.take ∧ (onRoll n f s).dlv = s.dlv ∧ (onRoll n f s).svc = s.svc
      ∧ (onRoll n f s).store = s.store :=
  ⟨rfl, rfl, rfl, rfl, rfl, rfl, rfl, rfl, rfl, rfl, rfl, rfl, rfl⟩

@[simp] theorem onRoll_self (n : Station) (f : RollEntry → RollEntry) (s : State) : (onRoll n f s).ctl = { s.ctl with roll := change s.ctl.roll n f } := rfl

/-! ### Fixed tables -/

/-- Reading the entry just put. -/
@[simp] theorem put_self {α : Type} {n : Nat} (v : Vector α n) (i : Fin n) (x : α) : (put v i x)[i] = x := by
  simp [put]

/-- Reading another entry than the one put. -/
theorem put_other {α : Type} {n : Nat} (v : Vector α n) (i j : Fin n) (x : α) (h : i ≠ j) : (put v i x)[j] = v[j] := by
  have : i.val ≠ j.val := fun e => h (Fin.ext e)
  simp [put, this]

/-- Reading any entry of a table in which one entry was put. -/
theorem put_get {α : Type} {n : Nat} (v : Vector α n) (i j : Fin n) (x : α) :
    (put v i x)[j] = if i = j then x else v[j] := by
  split
  next h => subst h; exact put_self v i x
  next h => exact put_other v i j x h

/-- Reading any entry of a table in which one entry was changed. -/
theorem change_get {α : Type} {n : Nat} (v : Vector α n) (i j : Fin n) (f : α → α) :
    (change v i f)[j] = if i = j then f v[i] else v[j] := put_get v i j (f v[i])

/-- Reading any entry of a table in which every entry was changed. -/
@[simp] theorem each_get {α β : Type} {n : Nat} (f : α → β) (v : Vector α n) (j : Fin n) : (each f v)[j] = f v[j] := by
  simp [each]

/-- Reading an entry of a table all of whose entries are equal. -/
@[simp] theorem replicate_get {α : Type} {n : Nat} (x : α) (j : Fin n) : (Vector.replicate n x)[j] = x := by
  simp

end Sys2Proof.Machine
end

