-- ==== Sys2Proof/Laws/Due.lean ====
section
/-! SUPPORT. When an expiry or a completion has fallen, said once for each test of the model. -/
namespace Sys2Proof.Machine

theorem reached_iff (now t : Time) (n : Nat) : reached now t n = true ↔ n ≤ (now - t).toNat := by
  unfold reached unitsSince
  exact decide_eq_true_iff

theorem timerDue_iff (now : Time) (o : Option Time) (n : Nat) :
    timerDue now o n = true ↔ ∃ t, o = some t ∧ n ≤ (now - t).toNat := by
  cases o with
  | none => simp [timerDue]
  | some t =>
    simp only [timerDue, reached_iff]
    exact ⟨fun h => ⟨t, rfl, h⟩, fun ⟨u, hu, h⟩ => by cases hu; exact h⟩

theorem runDue_iff (s : State) :
    runDue s = true ↔ ∀ e, s.ring.lastRunEnd = some e → Config.alignmentAge ≤ (s.time - e).toNat := by
  unfold runDue
  split
  · rename_i h
    simp [h]
  · rename_i t h
    rw [reached_iff]
    exact ⟨fun g e he => by rw [h] at he; cases he; exact g, fun g => g t h⟩

theorem maySent_iff (s : State) (n : Nat) :
    maySent s n = true ↔ n / Config.charsPerUnit ≤ (s.time - s.ring.began).toNat := reached_iff _ _ _

theorem mustSent_iff (s : State) (n : Nat) :
    mustSent s n = true ↔ (n + (Config.charsPerUnit - 1)) / Config.charsPerUnit ≤ (s.time - s.ring.began).toNat :=
  reached_iff _ _ _

theorem returnWatchDue_iff (s : State) :
    returnWatchDue s = true ↔ ∃ r rest, s.ctl.pendingReturn = r :: rest ∧ Config.returnWatch ≤ (s.time - r.launch).toNat := by
  unfold returnWatchDue
  split
  · rename_i h
    simp [h]
  · rename_i r rest h
    rw [reached_iff]
    exact ⟨fun g => ⟨r, rest, h, g⟩, fun ⟨q, l, hq, g⟩ => by rw [h] at hq; cases hq; exact g⟩

theorem clashDue_iff (s : State) (n : Station) :
    clashDue s n = true ↔
      s.ctl.roll[n].condition = .clash ∧ Config.clashTime ≤ (s.time - s.ctl.roll[n].identityChange).toNat := by
  simp only [clashDue, Bool.and_eq_true, reached_iff, beq_iff_eq]

theorem silenceDue_iff (s : State) (n : Station) :
    silenceDue s n = true ↔
      (s.ctl.roll[n].condition = .present ∨ s.ctl.roll[n].condition = .clash)
        ∧ Config.silenceTime ≤ (s.time - s.ctl.roll[n].receipt).toNat := by
  simp only [silenceDue, Bool.and_eq_true, Bool.or_eq_true, reached_iff, beq_iff_eq]

theorem staleDue_iff (s : State) (n : Station) :
    staleDue s n = true ↔
      s.strip.table[n].condition = .fresh ∧ Config.staleTime ≤ (s.time - s.strip.table[n].receipt).toNat := by
  simp only [staleDue, Bool.and_eq_true, reached_iff, beq_iff_eq]

theorem removalDue_iff (s : State) (n : Station) :
    removalDue s n = true ↔
      s.strip.table[n].condition = .stale ∧ Config.removalTime ≤ (s.time - s.strip.table[n].receipt).toNat := by
  simp only [removalDue, Bool.and_eq_true, reached_iff, beq_iff_eq]

theorem cleanDue_iff (s : State) :
    cleanDue s = true ↔
      s.strip.encoder = .fault ∧ ∃ t, s.strip.illegal.getLast? = some t ∧ Config.cleanTime ≤ (s.time - t).toNat := by
  unfold cleanDue
  cases he : s.strip.encoder <;> cases hl : s.strip.illegal.getLast? <;> simp only [reduceCtorEq, false_and, true_and]
  · simp
  · rename_i t
    rw [reached_iff]
    exact ⟨fun g => ⟨t, rfl, g⟩, fun ⟨u, hu, g⟩ => by cases hu; exact g⟩

theorem easeDue_iff (s : State) (n : Station) :
    easeDue s n = true ↔
      s.ease.table[n].live = true
        ∧ Config.easeLife ≤ (s.time - (s.ease.table[n].expiry - BitVec.ofNat 32 Config.easeLife)).toNat := by
  simp only [easeDue, Bool.and_eq_true, reached_iff]

theorem darkDue_iff (s : State) (i : Cam) :
    darkDue s i = true ↔
      s.ctl.state.runs = true ∧ s.cams[i].port.state.receives = true
        ∧ ∃ t, s.cams[i].port.darkWatch = some t ∧ Config.darkTime ≤ (s.time - t).toNat := by
  simp only [darkDue, Bool.and_eq_true, timerDue_iff, and_assoc]

theorem timeoutDue_iff (s : State) (i : Cam) :
    timeoutDue s i = true ↔
      ∃ c r rest, s.camSettings i = some c ∧ s.cams[i].trig.fifo = r :: rest ∧ s.ctl.state.runs = true ∧ c.enabled = true
        ∧ c.free = false ∧ c.timeout ≤ (s.time - r.fired).toNat := by
  unfold timeoutDue
  split
  · rename_i c r rest hc hf
    simp only [Bool.and_eq_true, reached_iff, Bool.not_eq_true', and_assoc]
    exact ⟨fun ⟨a, b, d, e⟩ => ⟨c, r, rest, hc, hf, a, b, d, e⟩,
      fun ⟨c', r', rest', h1, h2, a, b, d, e⟩ => by rw [hc] at h1; rw [hf] at h2; cases h1; cases h2; exact ⟨a, b, d, e⟩⟩
  · rename_i h
    simp only [Bool.false_eq_true, false_iff]
    rintro ⟨c, r, rest, h1, h2, _⟩
    exact h c r rest h1 h2

theorem assemblyDue_iff (s : State) (k : Fin 32) :
    assemblyDue s k = true ↔
      ∃ a, s.take.contexts[k] = some a ∧ s.ctl.state.runs = true ∧ s.takeOffEnabled = true
        ∧ Config.assemblyTime ≤ (s.time - a.lastArrival).toNat := by
  unfold assemblyDue
  split
  · rename_i a ha
    simp only [Bool.and_eq_true, reached_iff, and_assoc]
    exact ⟨fun ⟨x, y, z⟩ => ⟨a, ha, x, y, z⟩, fun ⟨b, hb, x, y, z⟩ => by rw [ha] at hb; cases hb; exact ⟨x, y, z⟩⟩
  · rename_i h
    simp [h]

end Sys2Proof.Machine
end

