-- ==== Sys2Proof/Laws/Frames.lean ====
section
/-! SUPPORT. The frame of each shared operation: the blocks it leaves as they were, whatever it does to the others. -/
namespace Sys2Proof.Machine

/-! ### The outbound port -/

@[simp] theorem enterOpen_rest (s : State) :
    (enterOpen s).pending = s.pending ∧ (enterOpen s).freeCount = s.freeCount ∧ (enterOpen s).time = s.time
      ∧ (enterOpen s).ring = s.ring ∧ (enterOpen s).strip = s.strip ∧ (enterOpen s).seam = s.seam
      ∧ (enterOpen s).cams = s.cams ∧ (enterOpen s).seg = s.seg ∧ (enterOpen s).ease = s.ease
      ∧ (enterOpen s).take = s.take ∧ (enterOpen s).dlv = s.dlv ∧ (enterOpen s).svc = s.svc
      ∧ (enterOpen s).store = s.store := by
  unfold enterOpen
  (repeat' split) <;> simp

@[simp] theorem watchReturn_rest (q : Word16) (s : State) :
    (watchReturn q s).pending = s.pending ∧ (watchReturn q s).freeCount = s.freeCount
      ∧ (watchReturn q s).time = s.time ∧ (watchReturn q s).ring = s.ring ∧ (watchReturn q s).strip = s.strip
      ∧ (watchReturn q s).seam = s.seam ∧ (watchReturn q s).cams = s.cams ∧ (watchReturn q s).seg = s.seg
      ∧ (watchReturn q s).ease = s.ease ∧ (watchReturn q s).take = s.take ∧ (watchReturn q s).dlv = s.dlv
      ∧ (watchReturn q s).svc = s.svc ∧ (watchReturn q s).store = s.store := by
  unfold watchReturn
  (repeat' split) <;> simp

@[simp] theorem startSending_rest (q : OutQueue) (c : List Byte) (s : State) :
    (startSending q c s).pending = s.pending ∧ (startSending q c s).freeCount = s.freeCount
      ∧ (startSending q c s).time = s.time ∧ (startSending q c s).ctl = s.ctl ∧ (startSending q c s).strip = s.strip
      ∧ (startSending q c s).seam = s.seam ∧ (startSending q c s).cams = s.cams ∧ (startSending q c s).seg = s.seg
      ∧ (startSending q c s).ease = s.ease ∧ (startSending q c s).take = s.take ∧ (startSending q c s).dlv = s.dlv
      ∧ (startSending q c s).svc = s.svc ∧ (startSending q c s).store = s.store := by
  simp [startSending]

@[simp] theorem writeOwnEntry_rest (c : StatusContents) (s : State) :
    (writeOwnEntry c s).pending = s.pending ∧ (writeOwnEntry c s).freeCount = s.freeCount
      ∧ (writeOwnEntry c s).time = s.time ∧ (writeOwnEntry c s).ring = s.ring ∧ (writeOwnEntry c s).strip = s.strip
      ∧ (writeOwnEntry c s).seam = s.seam ∧ (writeOwnEntry c s).cams = s.cams ∧ (writeOwnEntry c s).seg = s.seg
      ∧ (writeOwnEntry c s).ease = s.ease ∧ (writeOwnEntry c s).take = s.take ∧ (writeOwnEntry c s).dlv = s.dlv
      ∧ (writeOwnEntry c s).svc = s.svc ∧ (writeOwnEntry c s).store = s.store := by
  simp [writeOwnEntry]

@[simp] theorem launchStatus_rest (h : OwnHeader) (s : State) :
    (launchStatus h s).pending = s.pending ∧ (launchStatus h s).freeCount = s.freeCount
      ∧ (launchStatus h s).time = s.time ∧ (launchStatus h s).strip = s.strip ∧ (launchStatus h s).seam = s.seam
      ∧ (launchStatus h s).cams = s.cams ∧ (launchStatus h s).seg = s.seg ∧ (launchStatus h s).ease = s.ease
      ∧ (launchStatus h s).take = s.take ∧ (launchStatus h s).dlv = s.dlv ∧ (launchStatus h s).svc = s.svc
      ∧ (launchStatus h s).store = s.store := by
  simp [launchStatus]

@[simp] theorem launchControl_rest (p : ControlParcel) (s : State) :
    (launchControl p s).pending = s.pending ∧ (launchControl p s).freeCount = s.freeCount
      ∧ (launchControl p s).time = s.time ∧ (launchControl p s).strip = s.strip ∧ (launchControl p s).seam = s.seam
      ∧ (launchControl p s).cams = s.cams ∧ (launchControl p s).seg = s.seg ∧ (launchControl p s).take = s.take
      ∧ (launchControl p s).dlv = s.dlv ∧ (launchControl p s).svc = s.svc ∧ (launchControl p s).store = s.store := by
  unfold launchControl
  (repeat' split) <;> simp

@[simp] theorem clearDown_rest (s : State) :
    (clearDown s).pending = s.pending ∧ (clearDown s).freeCount = s.freeCount ∧ (clearDown s).time = s.time
      ∧ (clearDown s).ring = s.ring ∧ (clearDown s).ctl = s.ctl ∧ (clearDown s).strip = s.strip
      ∧ (clearDown s).seam = s.seam ∧ (clearDown s).cams = s.cams ∧ (clearDown s).ease = s.ease
      ∧ (clearDown s).take = s.take ∧ (clearDown s).dlv = s.dlv ∧ (clearDown s).svc = s.svc
      ∧ (clearDown s).store = s.store := by
  unfold clearDown
  (repeat' split) <;> simp

@[simp] theorem countDecision_rest (c : Choice) (s : State) :
    (countDecision c s).pending = s.pending ∧ (countDecision c s).freeCount = s.freeCount
      ∧ (countDecision c s).time = s.time ∧ (countDecision c s).ring = s.ring ∧ (countDecision c s).ctl = s.ctl
      ∧ (countDecision c s).strip = s.strip ∧ (countDecision c s).seam = s.seam ∧ (countDecision c s).cams = s.cams
      ∧ (countDecision c s).seg = s.seg ∧ (countDecision c s).take = s.take ∧ (countDecision c s).dlv = s.dlv
      ∧ (countDecision c s).svc = s.svc ∧ (countDecision c s).store = s.store := by
  unfold countDecision
  (repeat' split) <;> simp

@[simp] theorem sendChosen_rest (c : Choice) (s : State) :
    (sendChosen c s).pending = s.pending ∧ (sendChosen c s).freeCount = s.freeCount ∧ (sendChosen c s).time = s.time
      ∧ (sendChosen c s).strip = s.strip ∧ (sendChosen c s).seam = s.seam ∧ (sendChosen c s).cams = s.cams
      ∧ (sendChosen c s).take = s.take ∧ (sendChosen c s).dlv = s.dlv ∧ (sendChosen c s).svc = s.svc
      ∧ (sendChosen c s).store = s.store := by
  unfold sendChosen
  (repeat' split) <;> simp

@[simp] theorem outboundFree_rest (s : State) :
    (outboundFree s).pending = s.pending ∧ (outboundFree s).freeCount = s.freeCount ∧ (outboundFree s).time = s.time
      ∧ (outboundFree s).strip = s.strip ∧ (outboundFree s).seam = s.seam ∧ (outboundFree s).cams = s.cams
      ∧ (outboundFree s).take = s.take ∧ (outboundFree s).dlv = s.dlv ∧ (outboundFree s).svc = s.svc
      ∧ (outboundFree s).store = s.store := by
  simp [outboundFree]

@[simp] theorem startRun_rest (s : State) :
    (startRun s).pending = s.pending ∧ (startRun s).freeCount = s.freeCount ∧ (startRun s).time = s.time
      ∧ (startRun s).ctl = s.ctl ∧ (startRun s).strip = s.strip ∧ (startRun s).seam = s.seam
      ∧ (startRun s).cams = s.cams ∧ (startRun s).seg = s.seg ∧ (startRun s).ease = s.ease
      ∧ (startRun s).take = s.take ∧ (startRun s).dlv = s.dlv ∧ (startRun s).svc = s.svc
      ∧ (startRun s).store = s.store := by
  simp [startRun]

@[simp] theorem freeAfterSending_rest (s : State) :
    (freeAfterSending s).pending = s.pending ∧ (freeAfterSending s).freeCount = s.freeCount
      ∧ (freeAfterSending s).time = s.time ∧ (freeAfterSending s).strip = s.strip ∧ (freeAfterSending s).seam = s.seam
      ∧ (freeAfterSending s).cams = s.cams ∧ (freeAfterSending s).take = s.take ∧ (freeAfterSending s).dlv = s.dlv
      ∧ (freeAfterSending s).svc = s.svc ∧ (freeAfterSending s).store = s.store := by
  unfold freeAfterSending
  (repeat' split) <;> simp

@[simp] theorem freeWhileIdle_rest (s : State) :
    (freeWhileIdle s).pending = s.pending ∧ (freeWhileIdle s).time = s.time ∧ (freeWhileIdle s).strip = s.strip
      ∧ (freeWhileIdle s).seam = s.seam ∧ (freeWhileIdle s).cams = s.cams ∧ (freeWhileIdle s).take = s.take
      ∧ (freeWhileIdle s).dlv = s.dlv ∧ (freeWhileIdle s).svc = s.svc ∧ (freeWhileIdle s).store = s.store := by
  unfold freeWhileIdle
  simp only []
  (repeat' split) <;> simp

@[simp] theorem joinControl_rest (p : ControlParcel) (s : State) :
    (joinControl p s).pending = s.pending ∧ (joinControl p s).time = s.time ∧ (joinControl p s).strip = s.strip
      ∧ (joinControl p s).seam = s.seam ∧ (joinControl p s).cams = s.cams ∧ (joinControl p s).take = s.take
      ∧ (joinControl p s).dlv = s.dlv ∧ (joinControl p s).svc = s.svc ∧ (joinControl p s).store = s.store := by
  simp [joinControl]

@[simp] theorem placeRequest_rest (b : ControlBody) (s : State) :
    (placeRequest b s).pending = s.pending ∧ (placeRequest b s).time = s.time ∧ (placeRequest b s).strip = s.strip
      ∧ (placeRequest b s).seam = s.seam ∧ (placeRequest b s).cams = s.cams ∧ (placeRequest b s).take = s.take
      ∧ (placeRequest b s).dlv = s.dlv ∧ (placeRequest b s).svc = s.svc ∧ (placeRequest b s).store = s.store := by
  unfold placeRequest
  (repeat' split) <;> simp

@[simp] theorem placeMark_rest (x : Coord) (k : Word16) (s : State) :
    (placeMark x k s).pending = s.pending ∧ (placeMark x k s).time = s.time ∧ (placeMark x k s).strip = s.strip
      ∧ (placeMark x k s).seam = s.seam ∧ (placeMark x k s).cams = s.cams ∧ (placeMark x k s).take = s.take
      ∧ (placeMark x k s).dlv = s.dlv ∧ (placeMark x k s).svc = s.svc ∧ (placeMark x k s).store = s.store := by
  unfold placeMark
  (repeat' split) <;> simp

@[simp] theorem requestSignon_rest (s : State) :
    (requestSignon s).pending = s.pending ∧ (requestSignon s).time = s.time ∧ (requestSignon s).strip = s.strip
      ∧ (requestSignon s).seam = s.seam ∧ (requestSignon s).cams = s.cams ∧ (requestSignon s).take = s.take
      ∧ (requestSignon s).dlv = s.dlv ∧ (requestSignon s).svc = s.svc ∧ (requestSignon s).store = s.store := by
  simp [requestSignon]

@[simp] theorem requestStatus_rest (s : State) :
    (requestStatus s).pending = s.pending ∧ (requestStatus s).time = s.time ∧ (requestStatus s).strip = s.strip
      ∧ (requestStatus s).seam = s.seam ∧ (requestStatus s).cams = s.cams ∧ (requestStatus s).take = s.take
      ∧ (requestStatus s).dlv = s.dlv ∧ (requestStatus s).svc = s.svc ∧ (requestStatus s).store = s.store := by
  simp [requestStatus]

@[simp] theorem requestEase_rest (x : Word16) (s : State) :
    (requestEase x s).pending = s.pending ∧ (requestEase x s).time = s.time ∧ (requestEase x s).strip = s.strip
      ∧ (requestEase x s).seam = s.seam ∧ (requestEase x s).cams = s.cams ∧ (requestEase x s).take = s.take
      ∧ (requestEase x s).dlv = s.dlv ∧ (requestEase x s).svc = s.svc ∧ (requestEase x s).store = s.store := by
  simp [requestEase]

@[simp] theorem requestBeacon_rest (s : State) :
    (requestBeacon s).pending = s.pending ∧ (requestBeacon s).time = s.time ∧ (requestBeacon s).seam = s.seam
      ∧ (requestBeacon s).cams = s.cams ∧ (requestBeacon s).take = s.take ∧ (requestBeacon s).dlv = s.dlv
      ∧ (requestBeacon s).svc = s.svc ∧ (requestBeacon s).store = s.store := by
  simp [requestBeacon]

@[simp] theorem reportLimiter_rest (b : Bool) (s : State) :
    (reportLimiter b s).pending = s.pending ∧ (reportLimiter b s).time = s.time ∧ (reportLimiter b s).strip = s.strip
      ∧ (reportLimiter b s).seam = s.seam ∧ (reportLimiter b s).cams = s.cams ∧ (reportLimiter b s).take = s.take
      ∧ (reportLimiter b s).dlv = s.dlv ∧ (reportLimiter b s).svc = s.svc ∧ (reportLimiter b s).store = s.store := by
  unfold reportLimiter
  (repeat' split) <;> simp

@[simp] theorem recheckBeacon_rest (s : State) :
    (recheckBeacon s).pending = s.pending ∧ (recheckBeacon s).time = s.time ∧ (recheckBeacon s).seam = s.seam
      ∧ (recheckBeacon s).cams = s.cams ∧ (recheckBeacon s).take = s.take ∧ (recheckBeacon s).dlv = s.dlv
      ∧ (recheckBeacon s).svc = s.svc ∧ (recheckBeacon s).store = s.store := by
  unfold recheckBeacon
  (repeat' split) <;> simp

/-! ### Station control -/

@[simp] theorem enterRunning_rest (s : State) :
    (enterRunning s).pending = s.pending ∧ (enterRunning s).freeCount = s.freeCount ∧ (enterRunning s).time = s.time
      ∧ (enterRunning s).ring = s.ring ∧ (enterRunning s).strip = s.strip ∧ (enterRunning s).seam = s.seam
      ∧ (enterRunning s).cams = s.cams ∧ (enterRunning s).seg = s.seg ∧ (enterRunning s).ease = s.ease
      ∧ (enterRunning s).take = s.take ∧ (enterRunning s).dlv = s.dlv ∧ (enterRunning s).svc = s.svc
      ∧ (enterRunning s).store = s.store := by
  unfold enterRunning
  (repeat' split) <;> simp

@[simp] theorem enterDuplicate_rest (s : State) :
    (enterDuplicate s).pending = s.pending ∧ (enterDuplicate s).time = s.time ∧ (enterDuplicate s).seam = s.seam
      ∧ (enterDuplicate s).cams = s.cams ∧ (enterDuplicate s).take = s.take ∧ (enterDuplicate s).dlv = s.dlv
      ∧ (enterDuplicate s).svc = s.svc ∧ (enterDuplicate s).store = s.store := by
  simp [enterDuplicate]

@[simp] theorem linkDark_rest (s : State) :
    (linkDark s).pending = s.pending ∧ (linkDark s).freeCount = s.freeCount ∧ (linkDark s).time = s.time
      ∧ (linkDark s).ring = s.ring ∧ (linkDark s).strip = s.strip ∧ (linkDark s).seam = s.seam
      ∧ (linkDark s).cams = s.cams ∧ (linkDark s).seg = s.seg ∧ (linkDark s).ease = s.ease
      ∧ (linkDark s).take = s.take ∧ (linkDark s).dlv = s.dlv ∧ (linkDark s).svc = s.svc
      ∧ (linkDark s).store = s.store := by
  unfold linkDark
  (repeat' split) <;> simp

@[simp] theorem linkUp_rest (s : State) :
    (linkUp s).pending = s.pending ∧ (linkUp s).time = s.time ∧ (linkUp s).strip = s.strip ∧ (linkUp s).seam = s.seam
      ∧ (linkUp s).cams = s.cams ∧ (linkUp s).take = s.take ∧ (linkUp s).dlv = s.dlv ∧ (linkUp s).svc = s.svc
      ∧ (linkUp s).store = s.store := by
  unfold linkUp
  (repeat' split) <;> simp

@[simp] theorem ownSignonReturn_rest (s : State) :
    (ownSignonReturn s).pending = s.pending ∧ (ownSignonReturn s).freeCount = s.freeCount
      ∧ (ownSignonReturn s).time = s.time ∧ (ownSignonReturn s).ring = s.ring ∧ (ownSignonReturn s).strip = s.strip
      ∧ (ownSignonReturn s).seam = s.seam ∧ (ownSignonReturn s).cams = s.cams ∧ (ownSignonReturn s).seg = s.seg
      ∧ (ownSignonReturn s).ease = s.ease ∧ (ownSignonReturn s).take = s.take ∧ (ownSignonReturn s).dlv = s.dlv
      ∧ (ownSignonReturn s).svc = s.svc ∧ (ownSignonReturn s).store = s.store := by
  unfold ownSignonReturn
  (repeat' split) <;> simp

@[simp] theorem ownStatusReturn_rest (p : List Byte) (s : State) :
    (ownStatusReturn p s).pending = s.pending ∧ (ownStatusReturn p s).freeCount = s.freeCount
      ∧ (ownStatusReturn p s).time = s.time ∧ (ownStatusReturn p s).ring = s.ring
      ∧ (ownStatusReturn p s).strip = s.strip ∧ (ownStatusReturn p s).seam = s.seam
      ∧ (ownStatusReturn p s).cams = s.cams ∧ (ownStatusReturn p s).seg = s.seg ∧ (ownStatusReturn p s).ease = s.ease
      ∧ (ownStatusReturn p s).take = s.take ∧ (ownStatusReturn p s).dlv = s.dlv ∧ (ownStatusReturn p s).svc = s.svc
      ∧ (ownStatusReturn p s).store = s.store := by
  unfold ownStatusReturn
  (repeat' split) <;> simp

@[simp] theorem duplicateSeen_rest (s : State) :
    (duplicateSeen s).pending = s.pending ∧ (duplicateSeen s).time = s.time ∧ (duplicateSeen s).seam = s.seam
      ∧ (duplicateSeen s).cams = s.cams ∧ (duplicateSeen s).take = s.take ∧ (duplicateSeen s).dlv = s.dlv
      ∧ (duplicateSeen s).svc = s.svc ∧ (duplicateSeen s).store = s.store := by
  unfold duplicateSeen
  (repeat' split) <;> simp

@[simp] theorem peerSignon_rest (p : List Byte) (s : State) :
    (peerSignon p s).pending = s.pending ∧ (peerSignon p s).time = s.time ∧ (peerSignon p s).seam = s.seam
      ∧ (peerSignon p s).cams = s.cams ∧ (peerSignon p s).take = s.take ∧ (peerSignon p s).dlv = s.dlv
      ∧ (peerSignon p s).svc = s.svc ∧ (peerSignon p s).store = s.store := by
  unfold peerSignon
  simp only []
  (repeat' split) <;> simp

@[simp] theorem peerStatus_rest (p : List Byte) (s : State) :
    (peerStatus p s).pending = s.pending ∧ (peerStatus p s).time = s.time ∧ (peerStatus p s).seam = s.seam
      ∧ (peerStatus p s).cams = s.cams ∧ (peerStatus p s).take = s.take ∧ (peerStatus p s).dlv = s.dlv
      ∧ (peerStatus p s).svc = s.svc ∧ (peerStatus p s).store = s.store := by
  unfold peerStatus
  simp only []
  (repeat' split) <;> simp

/-! ### The strip position unit -/

@[simp] theorem raiseSourceChange_rest (s : State) :
    (raiseSourceChange s).pending = s.pending ∧ (raiseSourceChange s).freeCount = s.freeCount
      ∧ (raiseSourceChange s).time = s.time ∧ (raiseSourceChange s).ring = s.ring ∧ (raiseSourceChange s).ctl = s.ctl
      ∧ (raiseSourceChange s).seam = s.seam ∧ (raiseSourceChange s).seg = s.seg ∧ (raiseSourceChange s).ease = s.ease
      ∧ (raiseSourceChange s).take = s.take ∧ (raiseSourceChange s).dlv = s.dlv ∧ (raiseSourceChange s).svc = s.svc
      ∧ (raiseSourceChange s).store = s.store := by
  simp [raiseSourceChange]

@[simp] theorem setSource_rest (p : PositionSource) (s : State) :
    (setSource p s).pending = s.pending ∧ (setSource p s).freeCount = s.freeCount ∧ (setSource p s).time = s.time
      ∧ (setSource p s).ring = s.ring ∧ (setSource p s).ctl = s.ctl ∧ (setSource p s).seam = s.seam
      ∧ (setSource p s).seg = s.seg ∧ (setSource p s).ease = s.ease ∧ (setSource p s).take = s.take
      ∧ (setSource p s).dlv = s.dlv ∧ (setSource p s).svc = s.svc ∧ (setSource p s).store = s.store := by
  unfold setSource
  simp only []
  (repeat' split) <;> simp

@[simp] theorem follow_rest (n : Station) (s : State) :
    (follow n s).pending = s.pending ∧ (follow n s).freeCount = s.freeCount ∧ (follow n s).time = s.time
      ∧ (follow n s).ring = s.ring ∧ (follow n s).ctl = s.ctl ∧ (follow n s).seam = s.seam ∧ (follow n s).seg = s.seg
      ∧ (follow n s).ease = s.ease ∧ (follow n s).take = s.take ∧ (follow n s).dlv = s.dlv ∧ (follow n s).svc = s.svc
      ∧ (follow n s).store = s.store := by
  simp [follow]

@[simp] theorem markFallback_rest (s : State) :
    (markFallback s).pending = s.pending ∧ (markFallback s).freeCount = s.freeCount ∧ (markFallback s).time = s.time
      ∧ (markFallback s).ring = s.ring ∧ (markFallback s).ctl = s.ctl ∧ (markFallback s).strip = s.strip
      ∧ (markFallback s).seam = s.seam ∧ (markFallback s).seg = s.seg ∧ (markFallback s).ease = s.ease
      ∧ (markFallback s).take = s.take ∧ (markFallback s).dlv = s.dlv ∧ (markFallback s).svc = s.svc
      ∧ (markFallback s).store = s.store := by
  unfold markFallback
  (repeat' split) <;> simp

@[simp] theorem enterHeld_rest (s : State) :
    (enterHeld s).pending = s.pending ∧ (enterHeld s).freeCount = s.freeCount ∧ (enterHeld s).time = s.time
      ∧ (enterHeld s).ring = s.ring ∧ (enterHeld s).ctl = s.ctl ∧ (enterHeld s).seam = s.seam
      ∧ (enterHeld s).seg = s.seg ∧ (enterHeld s).ease = s.ease ∧ (enterHeld s).take = s.take
      ∧ (enterHeld s).dlv = s.dlv ∧ (enterHeld s).svc = s.svc ∧ (enterHeld s).store = s.store := by
  simp [enterHeld]

@[simp] theorem encoderFault_rest (s : State) :
    (encoderFault s).pending = s.pending ∧ (encoderFault s).time = s.time ∧ (encoderFault s).seam = s.seam
      ∧ (encoderFault s).take = s.take ∧ (encoderFault s).dlv = s.dlv ∧ (encoderFault s).svc = s.svc
      ∧ (encoderFault s).store = s.store := by
  unfold encoderFault
  simp only []
  (repeat' split) <;> simp

@[simp] theorem samplePair_rest (a b : Bool) (s : State) :
    (samplePair a b s).pending = s.pending ∧ (samplePair a b s).time = s.time ∧ (samplePair a b s).seam = s.seam
      ∧ (samplePair a b s).take = s.take ∧ (samplePair a b s).dlv = s.dlv ∧ (samplePair a b s).svc = s.svc
      ∧ (samplePair a b s).store = s.store := by
  unfold samplePair
  simp only []
  (repeat' split) <;> simp

@[simp] theorem stripUpdate_rest (s : State) :
    (stripUpdate s).pending = s.pending ∧ (stripUpdate s).freeCount = s.freeCount ∧ (stripUpdate s).time = s.time
      ∧ (stripUpdate s).ring = s.ring ∧ (stripUpdate s).ctl = s.ctl ∧ (stripUpdate s).seam = s.seam
      ∧ (stripUpdate s).cams = s.cams ∧ (stripUpdate s).seg = s.seg ∧ (stripUpdate s).ease = s.ease
      ∧ (stripUpdate s).take = s.take ∧ (stripUpdate s).dlv = s.dlv ∧ (stripUpdate s).svc = s.svc
      ∧ (stripUpdate s).store = s.store := by
  simp [stripUpdate]

@[simp] theorem afterEntryWrite_rest (n : Station) (s : State) :
    (afterEntryWrite n s).pending = s.pending ∧ (afterEntryWrite n s).freeCount = s.freeCount
      ∧ (afterEntryWrite n s).time = s.time ∧ (afterEntryWrite n s).ring = s.ring ∧ (afterEntryWrite n s).ctl = s.ctl
      ∧ (afterEntryWrite n s).seam = s.seam ∧ (afterEntryWrite n s).seg = s.seg ∧ (afterEntryWrite n s).ease = s.ease
      ∧ (afterEntryWrite n s).take = s.take ∧ (afterEntryWrite n s).dlv = s.dlv ∧ (afterEntryWrite n s).svc = s.svc
      ∧ (afterEntryWrite n s).store = s.store := by
  unfold afterEntryWrite
  (repeat' split) <;> simp

@[simp] theorem beaconOffer_rest (p : List Byte) (s : State) :
    (beaconOffer p s).pending = s.pending ∧ (beaconOffer p s).freeCount = s.freeCount
      ∧ (beaconOffer p s).time = s.time ∧ (beaconOffer p s).ring = s.ring ∧ (beaconOffer p s).ctl = s.ctl
      ∧ (beaconOffer p s).seam = s.seam ∧ (beaconOffer p s).seg = s.seg ∧ (beaconOffer p s).ease = s.ease
      ∧ (beaconOffer p s).take = s.take ∧ (beaconOffer p s).dlv = s.dlv ∧ (beaconOffer p s).svc = s.svc
      ∧ (beaconOffer p s).store = s.store := by
  unfold beaconOffer
  simp only []
  (repeat' split) <;> simp

@[simp] theorem returnToGood_rest (t : Settings) (s : State) :
    (returnToGood t s).pending = s.pending ∧ (returnToGood t s).time = s.time ∧ (returnToGood t s).seam = s.seam
      ∧ (returnToGood t s).take = s.take ∧ (returnToGood t s).dlv = s.dlv ∧ (returnToGood t s).svc = s.svc
      ∧ (returnToGood t s).store = s.store := by
  simp [returnToGood]

@[simp] theorem followedStale_rest (n : Station) (s : State) :
    (followedStale n s).pending = s.pending ∧ (followedStale n s).freeCount = s.freeCount
      ∧ (followedStale n s).time = s.time ∧ (followedStale n s).ring = s.ring ∧ (followedStale n s).ctl = s.ctl
      ∧ (followedStale n s).seam = s.seam ∧ (followedStale n s).seg = s.seg ∧ (followedStale n s).ease = s.ease
      ∧ (followedStale n s).take = s.take ∧ (followedStale n s).dlv = s.dlv ∧ (followedStale n s).svc = s.svc
      ∧ (followedStale n s).store = s.store := by
  unfold followedStale
  (repeat' split) <;> simp

@[simp] theorem endAlignment_rest (t : Settings) (s : State) :
    (endAlignment t s).pending = s.pending ∧ (endAlignment t s).time = s.time ∧ (endAlignment t s).seam = s.seam
      ∧ (endAlignment t s).cams = s.cams ∧ (endAlignment t s).take = s.take ∧ (endAlignment t s).dlv = s.dlv
      ∧ (endAlignment t s).svc = s.svc ∧ (endAlignment t s).store = s.store := by
  simp [endAlignment]

/-! ### The seam unit -/

@[simp] theorem insertRecord_rest (r : SeamRecord) (s : State) :
    (insertRecord r s).pending = s.pending ∧ (insertRecord r s).freeCount = s.freeCount
      ∧ (insertRecord r s).time = s.time ∧ (insertRecord r s).ring = s.ring ∧ (insertRecord r s).ctl = s.ctl
      ∧ (insertRecord r s).strip = s.strip ∧ (insertRecord r s).cams = s.cams ∧ (insertRecord r s).seg = s.seg
      ∧ (insertRecord r s).ease = s.ease ∧ (insertRecord r s).take = s.take ∧ (insertRecord r s).dlv = s.dlv
      ∧ (insertRecord r s).svc = s.svc ∧ (insertRecord r s).store = s.store := by
  simp [insertRecord]

@[simp] theorem offerSeam_rest (r : SeamRecord) (s : State) :
    (offerSeam r s).pending = s.pending ∧ (offerSeam r s).freeCount = s.freeCount ∧ (offerSeam r s).time = s.time
      ∧ (offerSeam r s).ring = s.ring ∧ (offerSeam r s).ctl = s.ctl ∧ (offerSeam r s).strip = s.strip
      ∧ (offerSeam r s).cams = s.cams ∧ (offerSeam r s).seg = s.seg ∧ (offerSeam r s).ease = s.ease
      ∧ (offerSeam r s).take = s.take ∧ (offerSeam r s).dlv = s.dlv ∧ (offerSeam r s).svc = s.svc
      ∧ (offerSeam r s).store = s.store := by
  unfold offerSeam
  (repeat' split) <;> simp

@[simp] theorem markOffer_rest (p : List Byte) (s : State) :
    (markOffer p s).pending = s.pending ∧ (markOffer p s).freeCount = s.freeCount ∧ (markOffer p s).time = s.time
      ∧ (markOffer p s).ring = s.ring ∧ (markOffer p s).ctl = s.ctl ∧ (markOffer p s).strip = s.strip
      ∧ (markOffer p s).cams = s.cams ∧ (markOffer p s).seg = s.seg ∧ (markOffer p s).ease = s.ease
      ∧ (markOffer p s).take = s.take ∧ (markOffer p s).dlv = s.dlv ∧ (markOffer p s).svc = s.svc
      ∧ (markOffer p s).store = s.store := by
  unfold markOffer
  (repeat' split) <;> simp

@[simp] theorem latestSeamOffer_rest (p : List Byte) (s : State) :
    (latestSeamOffer p s).pending = s.pending ∧ (latestSeamOffer p s).freeCount = s.freeCount
      ∧ (latestSeamOffer p s).time = s.time ∧ (latestSeamOffer p s).ring = s.ring ∧ (latestSeamOffer p s).ctl = s.ctl
      ∧ (latestSeamOffer p s).strip = s.strip ∧ (latestSeamOffer p s).cams = s.cams
      ∧ (latestSeamOffer p s).seg = s.seg ∧ (latestSeamOffer p s).ease = s.ease ∧ (latestSeamOffer p s).take = s.take
      ∧ (latestSeamOffer p s).dlv = s.dlv ∧ (latestSeamOffer p s).svc = s.svc ∧ (latestSeamOffer p s).store = s.store := by
  unfold latestSeamOffer
  (repeat' split) <;> simp

@[simp] theorem offerKeptSeam_rest (s : State) :
    (offerKeptSeam s).pending = s.pending ∧ (offerKeptSeam s).freeCount = s.freeCount
      ∧ (offerKeptSeam s).time = s.time ∧ (offerKeptSeam s).ring = s.ring ∧ (offerKeptSeam s).ctl = s.ctl
      ∧ (offerKeptSeam s).strip = s.strip ∧ (offerKeptSeam s).cams = s.cams ∧ (offerKeptSeam s).seg = s.seg
      ∧ (offerKeptSeam s).ease = s.ease ∧ (offerKeptSeam s).take = s.take ∧ (offerKeptSeam s).dlv = s.dlv
      ∧ (offerKeptSeam s).svc = s.svc ∧ (offerKeptSeam s).store = s.store := by
  unfold offerKeptSeam
  (repeat' split) <;> simp

@[simp] theorem placeCapture_rest (t : Settings) (c : Capture) (s : State) :
    (placeCapture t c s).pending = s.pending ∧ (placeCapture t c s).time = s.time
      ∧ (placeCapture t c s).strip = s.strip ∧ (placeCapture t c s).cams = s.cams ∧ (placeCapture t c s).take = s.take
      ∧ (placeCapture t c s).dlv = s.dlv ∧ (placeCapture t c s).svc = s.svc ∧ (placeCapture t c s).store = s.store := by
  unfold placeCapture
  simp only []
  (repeat' split) <;> simp

@[simp] theorem processCapture_rest (c : Capture) (s : State) :
    (processCapture c s).pending = s.pending ∧ (processCapture c s).time = s.time
      ∧ (processCapture c s).strip = s.strip ∧ (processCapture c s).cams = s.cams ∧ (processCapture c s).take = s.take
      ∧ (processCapture c s).dlv = s.dlv ∧ (processCapture c s).svc = s.svc ∧ (processCapture c s).store = s.store := by
  unfold processCapture
  (repeat' split) <;> simp

theorem processAll_rest (l : List Capture) : ∀ s : State,
    (l.foldl (fun t c => processCapture c t) s).pending = s.pending ∧ (l.foldl (fun t c => processCapture c t) s).time = s.time
      ∧ (l.foldl (fun t c => processCapture c t) s).strip = s.strip ∧ (l.foldl (fun t c => processCapture c t) s).cams = s.cams
      ∧ (l.foldl (fun t c => processCapture c t) s).take = s.take ∧ (l.foldl (fun t c => processCapture c t) s).dlv = s.dlv
      ∧ (l.foldl (fun t c => processCapture c t) s).svc = s.svc
      ∧ (l.foldl (fun t c => processCapture c t) s).store = s.store := by
  induction l with
  | nil => intro s; simp
  | cons c cs ih => intro s; have := ih (processCapture c s); simpa using this

@[simp] theorem seamUpdate_rest (s : State) :
    (seamUpdate s).pending = s.pending ∧ (seamUpdate s).time = s.time ∧ (seamUpdate s).strip = s.strip
      ∧ (seamUpdate s).cams = s.cams ∧ (seamUpdate s).take = s.take ∧ (seamUpdate s).dlv = s.dlv
      ∧ (seamUpdate s).svc = s.svc ∧ (seamUpdate s).store = s.store := by
  unfold seamUpdate
  simp only []
  (repeat' split) <;> simp [processAll_rest]

/-! ### Cameras and the segmenter -/

@[simp] theorem admitLine_rest (i : Cam) (r : LineRecord) (s : State) :
    (admitLine i r s).pending = s.pending ∧ (admitLine i r s).time = s.time ∧ (admitLine i r s).strip = s.strip
      ∧ (admitLine i r s).seam = s.seam ∧ (admitLine i r s).take = s.take ∧ (admitLine i r s).dlv = s.dlv
      ∧ (admitLine i r s).svc = s.svc ∧ (admitLine i r s).store = s.store := by
  simp [admitLine]

@[simp] theorem present_rest (i : Cam) (r : LineRecord) (s : State) :
    (present i r s).pending = s.pending ∧ (present i r s).time = s.time ∧ (present i r s).strip = s.strip
      ∧ (present i r s).seam = s.seam ∧ (present i r s).take = s.take ∧ (present i r s).dlv = s.dlv
      ∧ (present i r s).svc = s.svc ∧ (present i r s).store = s.store := by
  unfold present
  simp only []
  (repeat' split) <;> simp

@[simp] theorem makeRecord_rest (i : Cam) (t : Tags) (d : Bool) (l : List Nat) (n : Nat) (s : State) :
    (makeRecord i t d l n s).pending = s.pending ∧ (makeRecord i t d l n s).time = s.time
      ∧ (makeRecord i t d l n s).strip = s.strip ∧ (makeRecord i t d l n s).seam = s.seam
      ∧ (makeRecord i t d l n s).take = s.take ∧ (makeRecord i t d l n s).dlv = s.dlv
      ∧ (makeRecord i t d l n s).svc = s.svc ∧ (makeRecord i t d l n s).store = s.store := by
  simp [makeRecord]

@[simp] theorem substituteLine_rest (i : Cam) (c : CameraSettings) (t : Tags) (s : State) :
    (substituteLine i c t s).pending = s.pending ∧ (substituteLine i c t s).time = s.time
      ∧ (substituteLine i c t s).strip = s.strip ∧ (substituteLine i c t s).seam = s.seam
      ∧ (substituteLine i c t s).take = s.take ∧ (substituteLine i c t s).dlv = s.dlv
      ∧ (substituteLine i c t s).svc = s.svc ∧ (substituteLine i c t s).store = s.store := by
  simp [substituteLine]

@[simp] theorem conditionedLine_rest (i : Cam) (c : CameraSettings) (n : Nat) (t : Tags) (l : LineRx) (s : State) :
    (conditionedLine i c n t l s).pending = s.pending ∧ (conditionedLine i c n t l s).time = s.time
      ∧ (conditionedLine i c n t l s).strip = s.strip ∧ (conditionedLine i c n t l s).seam = s.seam
      ∧ (conditionedLine i c n t l s).take = s.take ∧ (conditionedLine i c n t l s).dlv = s.dlv
      ∧ (conditionedLine i c n t l s).svc = s.svc ∧ (conditionedLine i c n t l s).store = s.store := by
  simp [conditionedLine]

@[simp] theorem recordLine_rest (i : Cam) (c : CameraSettings) (t : Tags) (l : LineRx) (s : State) :
    (recordLine i c t l s).pending = s.pending ∧ (recordLine i c t l s).time = s.time
      ∧ (recordLine i c t l s).strip = s.strip ∧ (recordLine i c t l s).seam = s.seam
      ∧ (recordLine i c t l s).take = s.take ∧ (recordLine i c t l s).dlv = s.dlv ∧ (recordLine i c t l s).svc = s.svc
      ∧ (recordLine i c t l s).store = s.store := by
  unfold recordLine
  (repeat' split) <;> simp

@[simp] theorem tagLine_rest (i : Cam) (c : CameraSettings) (l : LineRx) (s : State) :
    (tagLine i c l s).pending = s.pending ∧ (tagLine i c l s).time = s.time ∧ (tagLine i c l s).strip = s.strip
      ∧ (tagLine i c l s).seam = s.seam ∧ (tagLine i c l s).take = s.take ∧ (tagLine i c l s).dlv = s.dlv
      ∧ (tagLine i c l s).svc = s.svc ∧ (tagLine i c l s).store = s.store := by
  unfold tagLine
  (repeat' split) <;> simp

@[simp] theorem completeLine_rest (i : Cam) (c : CameraSettings) (l : LineRx) (s : State) :
    (completeLine i c l s).pending = s.pending ∧ (completeLine i c l s).time = s.time
      ∧ (completeLine i c l s).strip = s.strip ∧ (completeLine i c l s).seam = s.seam
      ∧ (completeLine i c l s).take = s.take ∧ (completeLine i c l s).dlv = s.dlv ∧ (completeLine i c l s).svc = s.svc
      ∧ (completeLine i c l s).store = s.store := by
  simp [completeLine]

@[simp] theorem passSeam_rest (i : Cam) (e : SeamEntry) (s : State) :
    (passSeam i e s).pending = s.pending ∧ (passSeam i e s).freeCount = s.freeCount ∧ (passSeam i e s).time = s.time
      ∧ (passSeam i e s).ring = s.ring ∧ (passSeam i e s).ctl = s.ctl ∧ (passSeam i e s).strip = s.strip
      ∧ (passSeam i e s).seg = s.seg ∧ (passSeam i e s).ease = s.ease ∧ (passSeam i e s).take = s.take
      ∧ (passSeam i e s).dlv = s.dlv ∧ (passSeam i e s).svc = s.svc ∧ (passSeam i e s).store = s.store := by
  simp [passSeam]

@[simp] theorem passSeams_rest (i : Cam) (x : Coord) (s : State) :
    (passSeams i x s).pending = s.pending ∧ (passSeams i x s).freeCount = s.freeCount
      ∧ (passSeams i x s).time = s.time ∧ (passSeams i x s).ring = s.ring ∧ (passSeams i x s).ctl = s.ctl
      ∧ (passSeams i x s).strip = s.strip ∧ (passSeams i x s).seg = s.seg ∧ (passSeams i x s).ease = s.ease
      ∧ (passSeams i x s).take = s.take ∧ (passSeams i x s).dlv = s.dlv ∧ (passSeams i x s).svc = s.svc
      ∧ (passSeams i x s).store = s.store := by
  unfold passSeams
  (repeat' split) <;> simp

@[simp] theorem cameraUpdate_rest (i : Cam) (s : State) :
    (cameraUpdate i s).pending = s.pending ∧ (cameraUpdate i s).freeCount = s.freeCount
      ∧ (cameraUpdate i s).time = s.time ∧ (cameraUpdate i s).ring = s.ring ∧ (cameraUpdate i s).ctl = s.ctl
      ∧ (cameraUpdate i s).strip = s.strip ∧ (cameraUpdate i s).seg = s.seg ∧ (cameraUpdate i s).ease = s.ease
      ∧ (cameraUpdate i s).take = s.take ∧ (cameraUpdate i s).dlv = s.dlv ∧ (cameraUpdate i s).svc = s.svc
      ∧ (cameraUpdate i s).store = s.store := by
  unfold cameraUpdate
  simp only []
  (repeat' split) <;> simp

theorem camerasFold_rest (o : UpdateOrder) (k : Fin 3) (l : List Cam) : ∀ s : State, ∀ t : State,
    t = l.foldl (fun t i => if o.slot i = k then cameraUpdate i t else t) s →
    t.pending = s.pending ∧ t.freeCount = s.freeCount ∧ t.time = s.time ∧ t.ring = s.ring ∧ t.ctl = s.ctl ∧ t.strip = s.strip
      ∧ t.seg = s.seg ∧ t.ease = s.ease ∧ t.take = s.take ∧ t.dlv = s.dlv ∧ t.svc = s.svc ∧ t.store = s.store := by
  induction l with
  | nil => intro s t h; subst h; simp
  | cons i l ih =>
    intro s t h
    have := ih _ t h
    simp only [] at this
    split at this <;> simpa using this

@[simp] theorem camerasUpdate_rest (o : UpdateOrder) (k : Fin 3) (s : State) :
    (camerasUpdate o k s).pending = s.pending ∧ (camerasUpdate o k s).freeCount = s.freeCount
      ∧ (camerasUpdate o k s).time = s.time ∧ (camerasUpdate o k s).ring = s.ring ∧ (camerasUpdate o k s).ctl = s.ctl
      ∧ (camerasUpdate o k s).strip = s.strip ∧ (camerasUpdate o k s).seg = s.seg
      ∧ (camerasUpdate o k s).ease = s.ease ∧ (camerasUpdate o k s).take = s.take ∧ (camerasUpdate o k s).dlv = s.dlv
      ∧ (camerasUpdate o k s).svc = s.svc ∧ (camerasUpdate o k s).store = s.store := 
  camerasFold_rest o k _ s _ rfl

@[simp] theorem updateInOrder_rest (o : UpdateOrder) (s : State) :
    (updateInOrder o s).pending = s.pending ∧ (updateInOrder o s).time = s.time ∧ (updateInOrder o s).take = s.take
      ∧ (updateInOrder o s).dlv = s.dlv ∧ (updateInOrder o s).svc = s.svc ∧ (updateInOrder o s).store = s.store := by
  unfold updateInOrder
  simp only []
  (repeat' split) <;> simp

@[simp] theorem dropHead_rest (i : Cam) (c : CameraSettings) (r : TriggerRecord) (s : State) :
    (dropHead i c r s).pending = s.pending ∧ (dropHead i c r s).time = s.time ∧ (dropHead i c r s).strip = s.strip
      ∧ (dropHead i c r s).seam = s.seam ∧ (dropHead i c r s).take = s.take ∧ (dropHead i c r s).dlv = s.dlv
      ∧ (dropHead i c r s).svc = s.svc ∧ (dropHead i c r s).store = s.store := by
  unfold dropHead
  simp only []
  (repeat' split) <;> simp

theorem dropExpired_frame (i : Cam) (c : CameraSettings) (l : List TriggerRecord) : ∀ s t : State, t = dropExpired i c l s →
    t.pending = s.pending ∧ t.time = s.time ∧ t.strip = s.strip ∧ t.seam = s.seam ∧ t.take = s.take ∧ t.dlv = s.dlv
      ∧ t.svc = s.svc ∧ t.store = s.store := by
  induction l with
  | nil => intro s t h; subst h; simp
  | cons r l ih =>
    intro s t h
    simp only [dropExpired] at h
    split at h
    · have := ih _ t h; simpa using this
    · subst h; simp

@[simp] theorem dropExpired_rest (i : Cam) (c : CameraSettings) (l : List TriggerRecord) (s : State) :
    (dropExpired i c l s).pending = s.pending ∧ (dropExpired i c l s).time = s.time
      ∧ (dropExpired i c l s).strip = s.strip ∧ (dropExpired i c l s).seam = s.seam
      ∧ (dropExpired i c l s).take = s.take ∧ (dropExpired i c l s).dlv = s.dlv ∧ (dropExpired i c l s).svc = s.svc
      ∧ (dropExpired i c l s).store = s.store := 
  dropExpired_frame i c l s _ rfl

/-! ### Ease unit, take-off unit and delivery port -/

@[simp] theorem originate_rest (s : State) :
    (originate s).pending = s.pending ∧ (originate s).freeCount = s.freeCount ∧ (originate s).time = s.time
      ∧ (originate s).ring = s.ring ∧ (originate s).ctl = s.ctl ∧ (originate s).strip = s.strip
      ∧ (originate s).seam = s.seam ∧ (originate s).cams = s.cams ∧ (originate s).seg = s.seg
      ∧ (originate s).take = s.take ∧ (originate s).dlv = s.dlv ∧ (originate s).svc = s.svc
      ∧ (originate s).store = s.store := by
  unfold originate
  simp only []
  (repeat' split) <;> simp

@[simp] theorem renew_rest (s : State) :
    (renew s).pending = s.pending ∧ (renew s).time = s.time ∧ (renew s).strip = s.strip ∧ (renew s).seam = s.seam
      ∧ (renew s).cams = s.cams ∧ (renew s).take = s.take ∧ (renew s).dlv = s.dlv ∧ (renew s).svc = s.svc
      ∧ (renew s).store = s.store := by
  unfold renew
  (repeat' split) <;> simp

@[simp] theorem clearWindow_rest (s : State) :
    (clearWindow s).pending = s.pending ∧ (clearWindow s).freeCount = s.freeCount ∧ (clearWindow s).time = s.time
      ∧ (clearWindow s).ring = s.ring ∧ (clearWindow s).ctl = s.ctl ∧ (clearWindow s).strip = s.strip
      ∧ (clearWindow s).seam = s.seam ∧ (clearWindow s).cams = s.cams ∧ (clearWindow s).seg = s.seg
      ∧ (clearWindow s).take = s.take ∧ (clearWindow s).dlv = s.dlv ∧ (clearWindow s).svc = s.svc
      ∧ (clearWindow s).store = s.store := by
  simp [clearWindow]

@[simp] theorem windowExpiry_rest (s : State) :
    (windowExpiry s).pending = s.pending ∧ (windowExpiry s).time = s.time ∧ (windowExpiry s).strip = s.strip
      ∧ (windowExpiry s).seam = s.seam ∧ (windowExpiry s).cams = s.cams ∧ (windowExpiry s).take = s.take
      ∧ (windowExpiry s).dlv = s.dlv ∧ (windowExpiry s).svc = s.svc ∧ (windowExpiry s).store = s.store := by
  simp [windowExpiry]

@[simp] theorem easeOffer_rest (p : List Byte) (s : State) :
    (easeOffer p s).pending = s.pending ∧ (easeOffer p s).time = s.time ∧ (easeOffer p s).strip = s.strip
      ∧ (easeOffer p s).seam = s.seam ∧ (easeOffer p s).cams = s.cams ∧ (easeOffer p s).take = s.take
      ∧ (easeOffer p s).dlv = s.dlv ∧ (easeOffer p s).svc = s.svc ∧ (easeOffer p s).store = s.store := by
  unfold easeOffer
  simp only []
  (repeat' split) <;> simp

@[simp] theorem lineOffer_rest (p : List Byte) (s : State) :
    (lineOffer p s).pending = s.pending ∧ (lineOffer p s).freeCount = s.freeCount ∧ (lineOffer p s).time = s.time
      ∧ (lineOffer p s).ring = s.ring ∧ (lineOffer p s).ctl = s.ctl ∧ (lineOffer p s).strip = s.strip
      ∧ (lineOffer p s).seam = s.seam ∧ (lineOffer p s).cams = s.cams ∧ (lineOffer p s).seg = s.seg
      ∧ (lineOffer p s).ease = s.ease ∧ (lineOffer p s).dlv = s.dlv ∧ (lineOffer p s).svc = s.svc
      ∧ (lineOffer p s).store = s.store := by
  unfold lineOffer
  simp only []
  (repeat' split) <;> simp

@[simp] theorem release_rest (s : State) :
    (release s).pending = s.pending ∧ (release s).freeCount = s.freeCount ∧ (release s).time = s.time
      ∧ (release s).ring = s.ring ∧ (release s).ctl = s.ctl ∧ (release s).strip = s.strip ∧ (release s).seam = s.seam
      ∧ (release s).cams = s.cams ∧ (release s).seg = s.seg ∧ (release s).ease = s.ease ∧ (release s).svc = s.svc
      ∧ (release s).store = s.store := by
  simp [release]

/-! ### Arrivals -/

@[simp] theorem ownReturn_rest (k : Kind) (p : List Byte) (s : State) :
    (ownReturn k p s).pending = s.pending ∧ (ownReturn k p s).freeCount = s.freeCount
      ∧ (ownReturn k p s).time = s.time ∧ (ownReturn k p s).ring = s.ring ∧ (ownReturn k p s).strip = s.strip
      ∧ (ownReturn k p s).seam = s.seam ∧ (ownReturn k p s).cams = s.cams ∧ (ownReturn k p s).seg = s.seg
      ∧ (ownReturn k p s).ease = s.ease ∧ (ownReturn k p s).dlv = s.dlv ∧ (ownReturn k p s).svc = s.svc
      ∧ (ownReturn k p s).store = s.store := by
  unfold ownReturn
  (repeat' split) <;> simp

@[simp] theorem offerPeer_rest (k : Kind) (p : List Byte) (s : State) :
    (offerPeer k p s).pending = s.pending ∧ (offerPeer k p s).time = s.time ∧ (offerPeer k p s).dlv = s.dlv
      ∧ (offerPeer k p s).svc = s.svc ∧ (offerPeer k p s).store = s.store := by
  unfold offerPeer
  simp only []
  (repeat' split) <;> simp

@[simp] theorem forward_rest (p : List Byte) (s : State) :
    (forward p s).pending = s.pending ∧ (forward p s).time = s.time ∧ (forward p s).strip = s.strip
      ∧ (forward p s).seam = s.seam ∧ (forward p s).cams = s.cams ∧ (forward p s).take = s.take
      ∧ (forward p s).dlv = s.dlv ∧ (forward p s).svc = s.svc ∧ (forward p s).store = s.store := by
  unfold forward
  simp only []
  (repeat' split) <;> simp

@[simp] theorem processKnown_rest (k : Kind) (p : List Byte) (s : State) :
    (processKnown k p s).pending = s.pending ∧ (processKnown k p s).time = s.time ∧ (processKnown k p s).dlv = s.dlv
      ∧ (processKnown k p s).svc = s.svc ∧ (processKnown k p s).store = s.store := by
  unfold processKnown
  (repeat' split) <;> simp

@[simp] theorem processArrival_rest (r : Reception) (s : State) :
    (processArrival r s).pending = s.pending ∧ (processArrival r s).time = s.time ∧ (processArrival r s).dlv = s.dlv
      ∧ (processArrival r s).svc = s.svc ∧ (processArrival r s).store = s.store := by
  unfold processArrival
  (repeat' split) <;> simp

@[simp] theorem enterUp_rest (s : State) :
    (enterUp s).pending = s.pending ∧ (enterUp s).time = s.time ∧ (enterUp s).strip = s.strip
      ∧ (enterUp s).seam = s.seam ∧ (enterUp s).cams = s.cams ∧ (enterUp s).take = s.take ∧ (enterUp s).dlv = s.dlv
      ∧ (enterUp s).svc = s.svc ∧ (enterUp s).store = s.store := by
  simp [enterUp]

@[simp] theorem idleCharacter_rest (s : State) :
    (idleCharacter s).pending = s.pending ∧ (idleCharacter s).time = s.time ∧ (idleCharacter s).strip = s.strip
      ∧ (idleCharacter s).seam = s.seam ∧ (idleCharacter s).cams = s.cams ∧ (idleCharacter s).take = s.take
      ∧ (idleCharacter s).dlv = s.dlv ∧ (idleCharacter s).svc = s.svc ∧ (idleCharacter s).store = s.store := by
  unfold idleCharacter
  (repeat' split) <;> simp

@[simp] theorem enterDark_rest (p : OpenParcel) (s : State) :
    (enterDark p s).pending = s.pending ∧ (enterDark p s).freeCount = s.freeCount ∧ (enterDark p s).time = s.time
      ∧ (enterDark p s).strip = s.strip ∧ (enterDark p s).seam = s.seam ∧ (enterDark p s).cams = s.cams
      ∧ (enterDark p s).seg = s.seg ∧ (enterDark p s).ease = s.ease ∧ (enterDark p s).take = s.take
      ∧ (enterDark p s).dlv = s.dlv ∧ (enterDark p s).svc = s.svc ∧ (enterDark p s).store = s.store := by
  unfold enterDark
  simp only []
  (repeat' split) <;> simp

/-! ### Service line -/

@[simp] theorem frame_rest (c : BitVec 4) (a : BitVec 12) (s : State) :
    (frame c a s).pending = s.pending ∧ (frame c a s).freeCount = s.freeCount ∧ (frame c a s).time = s.time
      ∧ (frame c a s).ring = s.ring ∧ (frame c a s).ctl = s.ctl ∧ (frame c a s).strip = s.strip
      ∧ (frame c a s).seam = s.seam ∧ (frame c a s).cams = s.cams ∧ (frame c a s).seg = s.seg
      ∧ (frame c a s).ease = s.ease ∧ (frame c a s).take = s.take ∧ (frame c a s).dlv = s.dlv
      ∧ (frame c a s).store = s.store := by
  simp [frame]

@[simp] theorem loadReply_rest (w : Word16) (s : State) :
    (loadReply w s).pending = s.pending ∧ (loadReply w s).freeCount = s.freeCount ∧ (loadReply w s).time = s.time
      ∧ (loadReply w s).ring = s.ring ∧ (loadReply w s).ctl = s.ctl ∧ (loadReply w s).strip = s.strip
      ∧ (loadReply w s).seam = s.seam ∧ (loadReply w s).cams = s.cams ∧ (loadReply w s).seg = s.seg
      ∧ (loadReply w s).ease = s.ease ∧ (loadReply w s).take = s.take ∧ (loadReply w s).dlv = s.dlv
      ∧ (loadReply w s).store = s.store := by
  simp [loadReply]

@[simp] theorem replyStatus_rest (r : SvcResult) (s : State) :
    (replyStatus r s).pending = s.pending ∧ (replyStatus r s).freeCount = s.freeCount
      ∧ (replyStatus r s).time = s.time ∧ (replyStatus r s).ring = s.ring ∧ (replyStatus r s).ctl = s.ctl
      ∧ (replyStatus r s).strip = s.strip ∧ (replyStatus r s).seam = s.seam ∧ (replyStatus r s).cams = s.cams
      ∧ (replyStatus r s).seg = s.seg ∧ (replyStatus r s).ease = s.ease ∧ (replyStatus r s).take = s.take
      ∧ (replyStatus r s).dlv = s.dlv ∧ (replyStatus r s).store = s.store := by
  simp [replyStatus]

@[simp] theorem replyHigh_rest (s : State) :
    (replyHigh s).pending = s.pending ∧ (replyHigh s).freeCount = s.freeCount ∧ (replyHigh s).time = s.time
      ∧ (replyHigh s).ring = s.ring ∧ (replyHigh s).ctl = s.ctl ∧ (replyHigh s).strip = s.strip
      ∧ (replyHigh s).seam = s.seam ∧ (replyHigh s).cams = s.cams ∧ (replyHigh s).seg = s.seg
      ∧ (replyHigh s).ease = s.ease ∧ (replyHigh s).take = s.take ∧ (replyHigh s).dlv = s.dlv
      ∧ (replyHigh s).store = s.store := by
  simp [replyHigh]

end Sys2Proof.Machine
end

