-- ==== Sys2Proof/Laws/Layout.lean ====
section
/-! SUPPORT. What the layout operations do: numbers as bytes and back, fields of a run of bytes, the common header, the age of a
BEACON, the sums of a STATUS, the CRC bit by bit, the two parts of a command word, and the image during an EEPROM read. -/
namespace Sys2Proof.Machine

theorem toBytes_length : ∀ n v, (toBytes n v).length = n
  | 0, _ => rfl
  | n + 1, v => by simp [toBytes, toBytes_length n v]

theorem ofBytes_nil : ofBytes [] = 0 := rfl

theorem ofBytes_concat (l : List Byte) (b : Byte) : ofBytes (l ++ [b]) = ofBytes l * 256 + b.toNat := by simp [ofBytes]

theorem ofBytes_foldl (l : List Byte) (a : Nat) :
    l.foldl (fun n b => n * 256 + b.toNat) a = a * 256 ^ l.length + ofBytes l := by
  induction l generalizing a with
  | nil => simp [ofBytes]
  | cons b l ih =>
    have h := ih (0 * 256 + b.toNat)
    simp only [List.foldl_cons, List.length_cons, ofBytes] at *
    rw [ih, h, Nat.pow_succ]; ring

theorem ofBytes_cons (b : Byte) (l : List Byte) : ofBytes (b :: l) = b.toNat * 256 ^ l.length + ofBytes l := by
  have := ofBytes_foldl l b.toNat
  simpa [ofBytes] using this

theorem ofBytes_lt (l : List Byte) : ofBytes l < 256 ^ l.length := by
  induction l with
  | nil => simp [ofBytes]
  | cons b l ih =>
    rw [ofBytes_cons, List.length_cons, Nat.pow_succ]
    have := b.isLt
    nlinarith [Nat.pow_pos (n := l.length) (show 0 < 256 by decide)]

theorem ofBytes_toBytes : ∀ n v, ofBytes (toBytes n v) = v % 256 ^ n
  | 0, v => by simp [toBytes, ofBytes, Nat.mod_one]
  | n + 1, v => by
    rw [toBytes, ofBytes_cons, toBytes_length, ofBytes_toBytes n v, BitVec.toNat_ofNat, show (2 : Nat) ^ 8 = 256 from rfl,
      Nat.pow_succ, Nat.mod_mul, Nat.mul_comm, Nat.add_comm]

theorem field_zero (l : List Byte) (i w : Nat) : field l i 0 w = 0 := by simp [field, ofBytes]

/-- A field is its bytes, the most significant first. -/
theorem field_succ (l : List Byte) (i n w : Nat) (h : i + n < l.length) (hw : 8 * (n + 1) ≤ w) :
    (field l i (n + 1) w).toNat = 256 * (field l i n w).toNat + (byteAt l (i + n)).toNat := by
  have e : (l.drop i).take (n + 1) = (l.drop i).take n ++ [byteAt l (i + n)] := by
    rw [List.take_succ_eq_append_getElem (by simp; omega)]
    simp [byteAt, List.getD_eq_getElem?_getD, List.getElem?_eq_getElem h]
  have h1 := ofBytes_lt ((l.drop i).take n)
  have hl : ((l.drop i).take n).length = n := by simp; omega
  rw [hl] at h1
  have h2 : (256 : Nat) ^ n * 256 ≤ 2 ^ w := by
    rw [show (256:Nat) ^ n * 256 = 2 ^ (8 * (n + 1)) by rw [← Nat.pow_succ, show 256 = 2 ^ 8 by rfl, ← Nat.pow_mul]]
    exact Nat.pow_le_pow_right (by decide) hw
  have := (byteAt l (i + n)).isLt
  simp only [field, BitVec.toNat_ofNat, e, ofBytes_concat]
  rw [Nat.mod_eq_of_lt, Nat.mod_eq_of_lt] <;> omega

/-- A field read where its bytes were put. -/
theorem field_toBytes {a : List Byte} {i : Nat} (n w v : Nat) (b : List Byte) (h : a.length = i) :
    field (a ++ (toBytes n v ++ b)) i n w = BitVec.ofNat w (v % 256 ^ n) := by
  subst h
  simp [field, toBytes_length, ofBytes_toBytes]

theorem byteAt_append {a : List Byte} {i : Nat} (b : Byte) (c : List Byte) (h : a.length = i) :
    byteAt (a ++ (b :: c)) i = b := by
  subst h; simp [byteAt]

theorem byteAt_append_left {a b : List Byte} {i : Nat} (h : i < a.length) : byteAt (a ++ b) i = byteAt a i := by
  simp [byteAt, List.getD_eq_getElem?_getD, List.getElem?_append_left h]

theorem byteAt_append_right {a b : List Byte} {i : Nat} (h : a.length ≤ i) : byteAt (a ++ b) i = byteAt b (i - a.length) := by
  simp [byteAt, List.getD_eq_getElem?_getD, List.getElem?_append_right h]

/-- A field of whole bytes, written and read again. -/
theorem ofBytes_toBytes_self {w : Nat} (x : BitVec w) (n : Nat) (h : w = 8 * n) :
    BitVec.ofNat w (ofBytes (toBytes n x.toNat)) = x := by
  rw [ofBytes_toBytes]
  apply BitVec.eq_of_toNat_eq
  have hx := x.isLt
  have hb : x.toNat < 256 ^ n := by rw [show 256 = 2 ^ 8 by rfl, ← Nat.pow_mul, ← h]; exact hx
  rw [BitVec.toNat_ofNat, Nat.mod_eq_of_lt hb, Nat.mod_eq_of_lt hx]

/-- The bytes after the fields of a fixed-size body are 0 (R180). -/
theorem byteAt_padTo (a l : List Byte) (n i : Nat) (h : a.length + l.length ≤ i) : byteAt (a ++ padTo n l) i = 0 := by
  unfold padTo
  rw [← List.append_assoc, byteAt_append_right (by simp; omega)]
  simp [byteAt, List.getD_eq_getElem?_getD, List.getElem?_replicate]
  split <;> rfl

/-- A parcel that begins with `headerOf` has the common header of Table 12.1. -/
theorem headerOf_hasHeader (k : Kind) (h : OwnHeader) (n : Nat) (b : List Byte) (hn : b.length = n) (hm : n < 65536) :
    Safety.HasHeader h k.code n (headerOf k launchHops h n ++ b) := by
  refine ⟨?_, rfl, ?_, ?_, ?_, rfl⟩
  · simp [headerOf, toBytes_length, hn]; omega
  · show (BitVec.ofNat 8 (15 * 16 + h.source.val)).toNat = _
    have := h.source.isLt
    rw [BitVec.toNat_ofNat]; omega
  · exact ofBytes_toBytes_self h.key 2 rfl
  · show (BitVec.ofNat 16 (ofBytes (toBytes 2 n))).toNat = n
    rw [ofBytes_toBytes, BitVec.toNat_ofNat]; omega

theorem addAge_length {p : List Byte} (h : 19 ≤ p.length) (d : Nat) : (addAge p d).length = p.length := by
  simp [addAge, putBytes, toBytes_length]
  omega

theorem ageField_addAge {p : List Byte} (h : 19 ≤ p.length) (d : Nat) :
    (ageField (addAge p d)).toNat = min ((ageField p).toNat + d) 16777215 := by
  have hp : (p.take 16).length = 16 := by simp; omega
  have e : ageField (addAge p d) = satAdd (ageField p) d := by
    have := field_toBytes 3 24 (satAdd (ageField p) d).toNat (p.drop 19) hp
    rw [ageField, addAge, putBytes, toBytes_length, List.append_assoc, this, ← ofBytes_toBytes, ofBytes_toBytes_self _ 3 rfl]
  rw [e, satAdd_toNat]
  omega

/-- Adding to the age of a BEACON leaves every byte but those of the age. -/
theorem byteAt_addAge {p : List Byte} (h : 19 ≤ p.length) (d i : Nat) (hi : ¬ (16 ≤ i ∧ i ≤ 18)) :
    byteAt (addAge p d) i = byteAt p i := by
  have hp : (p.take 16).length = 16 := by simp; omega
  have ht : (toBytes 3 (satAdd (ageField p) d).toNat).length = 3 := toBytes_length _ _
  rw [addAge, putBytes, ht]
  by_cases hl : i < 16
  · rw [List.append_assoc, byteAt_append_left (by omega)]
    simp [byteAt, List.getD_eq_getElem?_getD, hl]
  · rw [byteAt_append_right (by simp only [List.length_append]; omega)]
    simp only [byteAt, List.getD_eq_getElem?_getD, List.getElem?_drop, List.length_append, hp, ht]
    congr 2
    omega

/-- The sum field of a STATUS (R32). -/
theorem sumLow16_toNat (v : Vector Camera 4) (f : Camera → Word32) :
    (sumLow16 v f).toNat = ((f v[0]).toNat + (f v[1]).toNat + (f v[2]).toNat + (f v[3]).toNat) % 65536 := by
  have : v.toList = [v[0], v[1], v[2], v[3]] := by
    apply List.ext_getElem (by simp)
    intro i h1 h2
    have : i < 4 := by simpa using h1
    rw [Vector.getElem_toList]
    match i, this with
    | 0, _ => rfl
    | 1, _ => rfl
    | 2, _ => rfl
    | 3, _ => rfl
  unfold sumLow16
  rw [this]
  simp only [List.map_cons, List.map_nil, List.sum_cons, List.sum_nil, BitVec.toNat_ofNat]
  omega

/-- One bit of the CRC register is linear in what is laid over it. -/
theorem crcBit_xor (r y : Word32) :
    crcBit (r ^^^ y) = ((r <<< 1) ^^^ (if r.msb != y.msb then 0x04C11DB7#32 else 0)) ^^^ (y <<< 1) := by
  have h : (r ^^^ y).msb = (r.msb != y.msb) := by simp [BitVec.msb_xor]
  unfold crcBit
  rw [h, BitVec.shiftLeft_xor_distrib]
  cases r.msb != y.msb
  · simp
  · simp only [if_true]
    rw [BitVec.xor_assoc, BitVec.xor_assoc]
    congr 1
    exact BitVec.xor_comm _ _

/-- A byte enters the CRC register bit by bit, the most significant first (R180). -/
theorem crcByte_eq_bits (r : Word32) (b : Byte) :
    crcByte r b = [7, 6, 5, 4, 3, 2, 1, 0].foldl
      (fun (r : Word32) j => (r <<< 1) ^^^ (if r.msb != b.getLsbD j then 0x04C11DB7#32 else 0)) r := by
  have m : ∀ k, k < 8 → (b.setWidth 32 <<< (24 + k)).msb = b.getLsbD (7 - k) := by
    intro k hk
    rw [BitVec.msb_eq_getLsbD_last, BitVec.getLsbD_shiftLeft, BitVec.getLsbD_setWidth]
    have h1 : ¬ (31 < 24 + k) := by omega
    have h2 : 31 - (24 + k) = 7 - k := by omega
    simp [h1, h2]
    omega
  have s : ∀ k, (b.setWidth 32 <<< (24 + k)) <<< 1 = b.setWidth 32 <<< (24 + (k + 1)) := by
    intro k; rw [← BitVec.shiftLeft_add]; rfl
  have z : b.setWidth 32 <<< (24 + 8) = 0#32 := by
    apply BitVec.eq_of_getLsbD_eq
    intro i hi
    simp [hi]
  unfold crcByte
  rw [show b.setWidth 32 <<< 24 = b.setWidth 32 <<< (24 + 0) from rfl, crcBit_xor, m 0 (by decide), s 0, crcBit_xor,
    m 1 (by decide), s 1, crcBit_xor, m 2 (by decide), s 2, crcBit_xor, m 3 (by decide), s 3, crcBit_xor, m 4 (by decide), s 4,
    crcBit_xor, m 5 (by decide), s 5, crcBit_xor, m 6 (by decide), s 6, crcBit_xor, m 7 (by decide), s 7, z, BitVec.xor_zero]
  rfl

/-- The code of a command word (Section 12.3). -/
theorem code_of_append (code : BitVec 4) (arg : BitVec 12) : (code ++ arg).extractLsb' 12 4 = code := by
  apply BitVec.eq_of_getLsbD_eq
  intro i hi
  rw [BitVec.getLsbD_extractLsb', BitVec.getLsbD_append]
  simp [hi]

/-- The argument of a command word (Section 12.3). -/
theorem argument_of_append (code : BitVec 4) (arg : BitVec 12) : (code ++ arg).extractLsb' 0 12 = arg := by
  apply BitVec.eq_of_getLsbD_eq
  intro i hi
  rw [BitVec.getLsbD_extractLsb', BitVec.getLsbD_append]
  simp [hi]

/-- A command word is its code and its argument (Section 12.3). -/
theorem code_append_argument (w : Word16) : w.extractLsb' 12 4 ++ w.extractLsb' 0 12 = w := by
  apply BitVec.eq_of_getLsbD_eq
  intro i hi
  rw [BitVec.getLsbD_append]
  by_cases h : i < 12
  · simp [h]
  · simp [h, show i - 12 < 4 by omega, show 12 + (i - 12) = i by omega]

/-- The image while a read goes on: the EEPROM's words below the mark, the old ones above (R176). -/
theorem readWords_getElem (n : Nat) (eeprom image : Vector Word16 128) (j : Fin 128) :
    (readWords n eeprom image)[j] = if j.val < n then eeprom[j] else image[j] := by
  have hj := j.isLt
  show (List.take n eeprom.toList ++ List.drop n image.toList)[j.val]'(by simp; omega) = _
  rw [List.getElem_append]
  by_cases h : j.val < n
  · simp [h]
  · simp [h]
    congr 1
    omega

end Sys2Proof.Machine
end

