-- ==== Sys2Proof/Laws/Limiter.lean ====
section
/-! SUPPORT. What the limiter's bound is (R140): none with no live entry, else sixteen times the least live share. -/
namespace Sys2Proof.Machine

/-- The least share of a run of entries: one of them that is live, and none that is live below it. -/
theorem foldl_leastShare (l : List EaseEntry) (acc : Option Nat) (k : Nat) (hacc : ∀ m, acc = some m → k ≤ m)
    (hl : ∀ x ∈ l, x.live = true → k ≤ x.share.toNat)
    (hk : acc = some k ∨ ∃ x ∈ l, x.live = true ∧ x.share.toNat = k) : l.foldl leastShare acc = some k := by
  induction l generalizing acc with
  | nil => simpa using hk
  | cons x l ih =>
    rw [List.foldl_cons]
    refine ih _ ?_ (fun y hy => hl y (List.mem_cons_of_mem _ hy)) ?_
    · intro m hm
      unfold leastShare at hm
      split at hm
      · rename_i hx
        have hx := hl x List.mem_cons_self hx
        cases acc with
        | none => simp at hm; omega
        | some n => have := hacc n rfl; simp at hm; omega
      · exact hacc m hm
    · rcases hk with hk | ⟨y, hy, hlive, hshare⟩
      · left
        subst hk
        unfold leastShare
        split
        · rename_i hx
          have := hl x List.mem_cons_self hx
          simp; omega
        · rfl
      · rcases List.mem_cons.1 hy with rfl | hy
        · left
          unfold leastShare
          rw [if_pos hlive]
          cases acc with
          | none => simp [hshare]
          | some n => have := hacc n rfl; simp [hshare]; omega
        · exact Or.inr ⟨y, hy, hlive, hshare⟩

/-- With no live entry the limit is none (R140). -/
theorem lineLimit_eq_none {e : EaseUnit} (h : ∀ n : Station, e.table[n].live = false) : lineLimit e = none := by
  have key : ∀ l : List EaseEntry, (∀ x ∈ l, x.live = false) → l.foldl leastShare none = none := by
    intro l
    induction l with
    | nil => intro _; rfl
    | cons x l ih =>
      intro hl
      rw [List.foldl_cons, leastShare, if_neg (by simp [hl x List.mem_cons_self])]
      exact ih (fun y hy => hl y (List.mem_cons_of_mem _ hy))
  unfold lineLimit
  rw [key]
  · rfl
  · intro x hx
    obtain ⟨i, hi, rfl⟩ := List.getElem_of_mem hx
    simpa using h ⟨i, by simpa using hi⟩

/-- With a live entry of the least live share, the limit is sixteen times that share (R140). -/
theorem lineLimit_eq_some {e : EaseUnit} {n : Station} (hn : e.table[n].live = true)
    (hm : ∀ m : Station, e.table[m].live = true → e.table[n].share.toNat ≤ e.table[m].share.toNat) :
    lineLimit e = some (e.table[n].share.toNat * 16) := by
  unfold lineLimit
  rw [foldl_leastShare e.table.toList none e.table[n].share.toNat (by simp) ?_ (Or.inr ⟨e.table[n], by simp, hn, rfl⟩)]
  · rfl
  · intro x hx hl
    obtain ⟨i, hi, rfl⟩ := List.getElem_of_mem hx
    simpa using hm ⟨i, by simpa using hi⟩ (by simpa using hl)

end Sys2Proof.Machine
end

