-- ==== Sys2Proof/Laws/Memory.lean ====
section
/-! SUPPORT. The line store: a write keeps the canonical form, a written byte reads back, and every other byte reads as
before. -/
namespace Sys2Proof.Machine.Memory

/-- Nothing listed is canonical. -/
theorem wf_empty : Memory.wf { cells := [] } = true := by simp [wf]

/-- The canonical form, as two facts about the cells. -/
theorem wf_iff (m : Memory) :
    m.wf = true ↔ (m.cells.map Prod.fst).Pairwise (· < ·) ∧ ∀ c ∈ m.cells, c.2 ≠ blankByte := by
  simp [wf]

/-- The cells of a run of bytes lie at the addresses of the run. -/
theorem mem_cellsOf {c : Host.Cell} {l : List Byte} : ∀ {a : Nat}, c ∈ cellsOf a l → a ≤ c.1 ∧ c.1 < a + l.length := by
  induction l with
  | nil => intro a h; simp [cellsOf] at h
  | cons b bs ih =>
    intro a h
    simp only [cellsOf] at h
    split at h
    · have := ih h; simp only [List.length_cons]; omega
    · rcases List.mem_cons.1 h with rfl | h
      · simp
      · have := ih h; simp only [List.length_cons]; omega

/-- The cells of a run of bytes list no byte that reads as unwritten. -/
theorem cellsOf_ne {c : Host.Cell} {l : List Byte} : ∀ {a : Nat}, c ∈ cellsOf a l → c.2 ≠ blankByte := by
  induction l with
  | nil => intro a h; simp [cellsOf] at h
  | cons b bs ih =>
    intro a h
    simp only [cellsOf] at h
    split at h
    · exact ih h
    next hb =>
      rcases List.mem_cons.1 h with rfl | h
      · simpa using hb
      · exact ih h

/-- The cells of a run of bytes have rising addresses. -/
theorem cellsOf_sorted (l : List Byte) : ∀ a : Nat, ((cellsOf a l).map Prod.fst).Pairwise (· < ·) := by
  induction l with
  | nil => intro a; simp [cellsOf]
  | cons b bs ih =>
    intro a
    simp only [cellsOf]
    split
    · exact ih _
    · simp only [List.map_cons, List.pairwise_cons]
      refine ⟨?_, ih _⟩
      intro x hx
      obtain ⟨c, hc, rfl⟩ := List.mem_map.1 hx
      have := mem_cellsOf hc
      omega

/-- A write keeps the canonical form. -/
theorem write_wf (m : Memory) (a : Nat) (l : List Byte) (h : m.wf = true) : (m.write a l).wf = true := by
  rw [wf_iff] at h ⊢
  obtain ⟨hs, hn⟩ := h
  have hsub : ∀ p : Host.Cell → Bool, ((m.cells.filter p).map Prod.fst).Pairwise (· < ·) := fun p =>
    hs.sublist (List.filter_sublist.map _)
  constructor
  · simp only [write, List.map_append, List.pairwise_append]
    refine ⟨⟨hsub _, cellsOf_sorted l a, ?_⟩, hsub _, ?_⟩
    · intro x hx y hy
      obtain ⟨c, hc, rfl⟩ := List.mem_map.1 hx
      obtain ⟨d, hd, rfl⟩ := List.mem_map.1 hy
      have h1 := (List.mem_filter.1 hc).2
      have h2 := mem_cellsOf hd
      simp at h1; omega
    · intro x hx y hy
      obtain ⟨d, hd, rfl⟩ := List.mem_map.1 hy
      have h2 := (List.mem_filter.1 hd).2
      simp only [decide_eq_true_eq] at h2
      rcases List.mem_append.1 hx with hx | hx
      · obtain ⟨c, hc, rfl⟩ := List.mem_map.1 hx
        have h1 := (List.mem_filter.1 hc).2
        simp at h1; omega
      · obtain ⟨c, hc, rfl⟩ := List.mem_map.1 hx
        have h1 := mem_cellsOf hc
        omega
  · intro c hc
    simp only [write, List.mem_append] at hc
    rcases hc with (hc | hc) | hc
    · exact hn c (List.mem_filter.1 hc).1
    · exact cellsOf_ne hc
    · exact hn c (List.mem_filter.1 hc).1

/-- Reading a list of cells. -/
def readCells (l : List Host.Cell) (x : Nat) : Byte :=
  match l.find? (fun c => c.1 == x) with
  | some c => c.2
  | none => blankByte

theorem readCells_append (l k : List Host.Cell) (x : Nat) :
    readCells (l ++ k) x = if l.any (fun c => c.1 == x) then readCells l x else readCells k x := by
  induction l with
  | nil => simp [readCells]
  | cons c cs ih =>
    by_cases h : c.1 == x
    · simp [readCells, h]
    · simp only [readCells, List.cons_append, List.find?_cons, h, List.any_cons, Bool.false_or] at ih ⊢
      exact ih

theorem readCells_absent (l : List Host.Cell) (x : Nat) (h : ∀ c ∈ l, c.1 ≠ x) : readCells l x = blankByte := by
  have : l.find? (fun c => c.1 == x) = none := by
    rw [List.find?_eq_none]; intro c hc; simp [h c hc]
  simp [readCells, this]

theorem readCells_filter (l : List Host.Cell) (p : Host.Cell → Bool) (x : Nat) (h : ∀ c : Host.Cell, c.1 = x → p c = true) :
    readCells (l.filter p) x = readCells l x := by
  induction l with
  | nil => rfl
  | cons c cs ih =>
    by_cases hx : c.1 = x
    · simp [readCells, h c hx, hx]
    · by_cases hp : p c = true
      · simp only [List.filter_cons, hp, if_true]
        simpa [readCells, List.find?_cons, hx] using ih
      · simp only [List.filter_cons, hp]
        simpa [readCells, List.find?_cons, hx] using ih

/-- A byte outside the run written reads as before. -/
theorem read_write_other (m : Memory) (a : Nat) (l : List Byte) (x : Nat) (h : x < a ∨ a + l.length ≤ x) :
    (m.write a l).read x = m.read x := by
  change readCells _ x = readCells m.cells x
  simp only [write, List.append_assoc]
  rcases h with h | h
  · have hr : readCells (cellsOf a l ++ m.cells.filter (fun c => decide (a + l.length ≤ c.1))) x = blankByte := by
      apply readCells_absent
      intro c hc
      rcases List.mem_append.1 hc with hc | hc
      · have := mem_cellsOf hc; omega
      · have := (List.mem_filter.1 hc).2; simp at this; omega
    rw [readCells_append, hr]
    have hf := readCells_filter m.cells (fun c => decide (c.1 < a)) x (fun c hc => by simp [hc, h])
    split
    · exact hf
    next hn =>
      rw [← hf]
      symm; apply readCells_absent
      intro c hc he; apply hn; rw [List.any_eq_true]; exact ⟨c, hc, by simp [he]⟩
  · have hl : ∀ c ∈ m.cells.filter (fun c => decide (c.1 < a)), c.1 ≠ x := by
      intro c hc; have := (List.mem_filter.1 hc).2; simp at this; omega
    have hm : ∀ c ∈ cellsOf a l, c.1 ≠ x := by
      intro c hc; have := mem_cellsOf hc; omega
    rw [readCells_append, if_neg, readCells_append, if_neg]
    · exact readCells_filter m.cells _ x (fun c hc => by simp [hc, h])
    · simp only [List.any_eq_true, beq_iff_eq, not_exists, not_and]; exact hm
    · simp only [List.any_eq_true, beq_iff_eq, not_exists, not_and]; exact hl

theorem readCells_cellsOf (l : List Byte) : ∀ (a i : Nat) (h : i < l.length), readCells (cellsOf a l) (a + i) = l[i] := by
  induction l with
  | nil => intro a i h; simp at h
  | cons b bs ih =>
    intro a i h
    cases i with
    | zero =>
      simp only [cellsOf, Nat.add_zero, List.getElem_cons_zero]
      split
      next hb =>
        rw [readCells_absent]
        · symm; simpa using hb
        · intro c hc; have := mem_cellsOf hc; omega
      · simp [readCells]
    | succ i =>
      have e : a + (i + 1) = (a + 1) + i := by omega
      have hi : i < bs.length := by simpa using h
      simp only [cellsOf, List.getElem_cons_succ, e]
      split
      · exact ih (a + 1) i hi
      · rw [← ih (a + 1) i hi]
        have : (a == a + 1 + i) = false := by simp; omega
        simp [readCells, this]

/-- A written byte reads back. -/
theorem read_write_same (m : Memory) (a : Nat) (l : List Byte) (i : Nat) (h : i < l.length) :
    (m.write a l).read (a + i) = l[i] := by
  change readCells _ (a + i) = _
  simp only [write, List.append_assoc]
  have hl : ∀ c ∈ m.cells.filter (fun c => decide (c.1 < a)), c.1 ≠ a + i := by
    intro c hc; have := (List.mem_filter.1 hc).2; simp at this; omega
  have hr : ∀ c ∈ m.cells.filter (fun c => decide (a + l.length ≤ c.1)), c.1 ≠ a + i := by
    intro c hc; have := (List.mem_filter.1 hc).2; simp at this; omega
  rw [readCells_append, if_neg, readCells_append]
  · rw [readCells_cellsOf l a i h]
    split
    · rfl
    next hn =>
      rw [readCells_absent _ _ hr, ← readCells_cellsOf l a i h]
      symm; apply readCells_absent
      intro c hc he; apply hn; rw [List.any_eq_true]; exact ⟨c, hc, by simp [he]⟩
  · simp only [List.any_eq_true, beq_iff_eq, not_exists, not_and]; exact hl

end Sys2Proof.Machine.Memory
end

