-- ==== Sys2Proof/Laws/Outbound.lean ====
section
/-! SUPPORT. What the outbound port and the placing of requests can do to the blocks they act on: queues only lose parcels at
the head (and control parcels the state does not allow), the station state at most goes from JOINING or RUNNING to OPEN. -/
namespace Sys2Proof.Machine

/-! ### Station control -/

/-- What an outbound event can do to station control. -/
structure ControlStep (c d : StationControl) : Prop where
  number : d.number = c.number
  identity : d.identity = c.identity
  configValid : d.configValid = c.configValid
  statusTimer : d.statusTimer = c.statusTimer
  state : d.state = c.state ∨ ((c.state = .joining ∨ c.state = .running) ∧ d.state = .ringOpen)
  pending : c.pendingReturn.length ≤ Config.pendingReturns → d.pendingReturn.length ≤ Config.pendingReturns

theorem ControlStep.refl (c : StationControl) : ControlStep c c := ⟨rfl, rfl, rfl, rfl, Or.inl rfl, id⟩

theorem ControlStep.trans {a b c : StationControl} (h : ControlStep a b) (k : ControlStep b c) : ControlStep a c := by
  refine ⟨k.number.trans h.number, k.identity.trans h.identity, k.configValid.trans h.configValid,
    k.statusTimer.trans h.statusTimer, ?_, fun x => k.pending (h.pending x)⟩
  rcases h.state with h1 | ⟨h1, h2⟩ <;> rcases k.state with k1 | ⟨k1, k2⟩
  · exact Or.inl (k1.trans h1)
  · rw [h1] at k1
    exact Or.inr ⟨k1, k2⟩
  · exact Or.inr ⟨h1, k1.trans h2⟩
  · exact Or.inr ⟨h1, k2⟩

theorem enterOpen_ctl (s : State) : ControlStep s.ctl (enterOpen s).ctl := by
  unfold enterOpen
  split
  · rename_i h
    exact ⟨rfl, rfl, rfl, rfl, Or.inr ⟨Or.inl h, rfl⟩, id⟩
  · rename_i h
    exact ⟨rfl, rfl, rfl, rfl, Or.inr ⟨Or.inr h, rfl⟩, id⟩
  all_goals exact ControlStep.refl _

theorem watchReturn_ctl (q : Word16) (s : State) : ControlStep s.ctl (watchReturn q s).ctl := by
  unfold watchReturn
  split
  · rename_i h
    refine ⟨rfl, rfl, rfl, rfl, Or.inl rfl, fun _ => ?_⟩
    simp only [List.length_append, List.length_singleton]
    omega
  · refine ControlStep.trans ?_ (enterOpen_ctl _)
    refine ⟨rfl, rfl, rfl, rfl, Or.inl rfl, fun h => ?_⟩
    simp only [List.length_append, List.length_drop, List.length_singleton]
    unfold Config.pendingReturns at *
    omega

theorem launchStatus_ctl (h : OwnHeader) (s : State) : ControlStep s.ctl (launchStatus h s).ctl := by
  unfold launchStatus writeOwnEntry
  refine ControlStep.trans (b := { s.ctl with sequence := s.ctl.sequence + 1 }) ⟨rfl, rfl, rfl, rfl, Or.inl rfl, id⟩ ?_
  have h := watchReturn_ctl (ownStatus s h).sequence
    { (startSending .control (statusBytes h (ownStatus s h)) s) with
      ctl := { s.ctl with sequence := s.ctl.sequence + 1 } }
  exact ⟨h.number, h.identity, h.configValid, h.statusTimer, h.state, h.pending⟩

theorem launchControl_ctl (p : ControlParcel) (s : State) : ControlStep s.ctl (launchControl p s).ctl := by
  unfold launchControl
  split
  · exact ControlStep.refl _
  · exact launchStatus_ctl _ _
  all_goals exact ControlStep.refl _

theorem outboundFree_ctl (s : State) : ControlStep s.ctl (outboundFree s).ctl := by
  have hc : ∀ c, (countDecision c (clearDown s)).ctl = s.ctl := fun c => by simp
  unfold outboundFree sendChosen
  simp only
  split
  · split
    · rw [hc]; exact ControlStep.refl _
    · simp only [startSending_rest]; rw [hc]; exact ControlStep.refl _
  · split
    · rw [hc]; exact ControlStep.refl _
    · refine ControlStep.trans ?_ (launchControl_ctl _ _)
      simp only
      rw [hc]; exact ControlStep.refl _
  · split
    · rw [hc]; exact ControlStep.refl _
    · simp only [startSending_rest]; rw [hc]; exact ControlStep.refl _
  · rw [hc]; exact ControlStep.refl _

theorem freeWhileIdle_ctl (s : State) : ControlStep s.ctl (freeWhileIdle s).ctl := by
  unfold freeWhileIdle
  split
  · exact ControlStep.refl _
  · simp only
    have hb : ∀ b : Bool, (if b = true then s else s.bump).ctl = s.ctl := fun b => by cases b <;> rfl
    split
    · simp only [startRun_rest, hb]; exact ControlStep.refl _
    · refine ControlStep.trans ?_ (outboundFree_ctl _)
      simp only [hb]; exact ControlStep.refl _

theorem placeRequest_ctl (b : ControlBody) (s : State) : ControlStep s.ctl (placeRequest b s).ctl := by
  unfold placeRequest joinControl
  simp only
  split
  · exact ControlStep.refl _
  · refine ControlStep.trans ?_ (freeWhileIdle_ctl _)
    exact ControlStep.refl _

theorem placeMark_ctl (x : Coord) (coil : Word16) (s : State) : ControlStep s.ctl (placeMark x coil s).ctl := by
  unfold placeMark joinControl
  split
  · refine ControlStep.trans ?_ (freeWhileIdle_ctl _)
    exact ControlStep.refl _
  · exact ControlStep.refl _

theorem reportLimiter_ctl (b : Bool) (s : State) : ControlStep s.ctl (reportLimiter b s).ctl := by
  unfold reportLimiter
  split
  · exact freeWhileIdle_ctl _
  · exact ControlStep.refl _

/-! ### Queues -/

/-- What an outbound-free event can do to the queues of the segmenter: they lose parcels at the head. -/
structure QueuesShrink (a b : Segmenter) : Prop where
  lines : b.lines <:+ a.lines
  control : b.control <:+ a.control
  dropped : b.marksDropped = a.marksDropped

theorem QueuesShrink.refl (a : Segmenter) : QueuesShrink a a := ⟨List.suffix_refl _, List.suffix_refl _, rfl⟩

theorem QueuesShrink.trans {a b c : Segmenter} (h : QueuesShrink a b) (k : QueuesShrink b c) : QueuesShrink a c :=
  ⟨k.lines.trans h.lines, k.control.trans h.control, k.dropped.trans h.dropped⟩

theorem clearDown_seg (s : State) : QueuesShrink s.seg (clearDown s).seg := by
  unfold clearDown
  split
  · exact ⟨List.suffix_refl _, List.dropWhile_suffix _, rfl⟩
  · exact QueuesShrink.refl _

theorem outboundFree_seg (s : State) : QueuesShrink s.seg (outboundFree s).seg := by
  have h := clearDown_seg s
  have hc : ∀ c, (countDecision c (clearDown s)).seg = (clearDown s).seg := fun c => by simp
  unfold outboundFree sendChosen
  simp only
  split
  · split
    · rw [hc]; exact h
    · simp only [startSending_rest]; rw [hc]; exact h
  · split
    · rw [hc]; exact h
    · rename_i p rest hq
      simp only [launchControl_rest]
      rw [hc] at hq ⊢
      exact ⟨h.lines, (List.suffix_cons p rest).trans (hq ▸ h.control), h.dropped⟩
  · split
    · rw [hc]; exact h
    · rename_i p rest hq
      simp only [startSending_rest]
      rw [hc] at hq ⊢
      exact ⟨(List.suffix_cons p rest).trans (hq ▸ h.lines), h.control, h.dropped⟩
  · rw [hc]; exact h

theorem freeWhileIdle_seg (s : State) : QueuesShrink s.seg (freeWhileIdle s).seg := by
  have hb : ∀ b : Bool, (if b = true then s else s.bump).seg = s.seg := fun b => by cases b <;> rfl
  unfold freeWhileIdle
  split
  · exact QueuesShrink.refl _
  · simp only
    split
    · simp only [startRun_rest, hb]; exact QueuesShrink.refl _
    · refine QueuesShrink.trans ?_ (outboundFree_seg _)
      simp only [hb]; exact QueuesShrink.refl _

theorem reportLimiter_seg (b : Bool) (s : State) : QueuesShrink s.seg (reportLimiter b s).seg := by
  unfold reportLimiter
  split
  · exact freeWhileIdle_seg _
  · exact QueuesShrink.refl _

/-! ### The ring port -/

/-- An outbound-free event changes nothing of the ring port but the transit buffer, which loses its head at most, the outbound
parcel and the time at which its sending began. -/
theorem outboundFree_ring (s : State) :
    (outboundFree s).ring = { s.ring with transit := (outboundFree s).ring.transit, outbound := (outboundFree s).ring.outbound,
                                          began := (outboundFree s).ring.began }
      ∧ (outboundFree s).ring.transit <:+ s.ring.transit := by
  have hc : ∀ c, (countDecision c (clearDown s)).ring = s.ring := fun c => by simp
  have hl : ∀ p t, (launchControl p t).ring = { t.ring with outbound := (launchControl p t).ring.outbound,
                                                            began := (launchControl p t).ring.began } := by
    intro p t
    unfold launchControl
    split
    · rfl
    · simp [launchStatus, startSending]
    all_goals rfl
  unfold outboundFree sendChosen
  simp only
  split
  · split
    · rw [hc]; exact ⟨rfl, List.suffix_refl _⟩
    · rename_i e rest hq
      rw [hc] at hq
      simp only [startSending]
      rw [hc]
      exact ⟨rfl, hq ▸ List.suffix_cons e rest⟩
  · split
    · rw [hc]; exact ⟨rfl, List.suffix_refl _⟩
    · rw [hl]
      simp only
      rw [hc]
      exact ⟨rfl, List.suffix_refl _⟩
  · split
    · rw [hc]; exact ⟨rfl, List.suffix_refl _⟩
    · simp only [startSending]
      rw [hc]
      exact ⟨rfl, List.suffix_refl _⟩
  · rw [hc]; exact ⟨rfl, List.suffix_refl _⟩

end Sys2Proof.Machine
end

