-- ==== Sys2Proof/WellFormed.lean ====
section
/-! DEFINITION. Which terms of Instr stand for an event the station can meet: a frame that is incomplete has fewer than 16
clock edges (R171), and an unknown command's code is none of the eleven codes of Section 12.3. -/
namespace Sys2Proof

/-- The check on a command's operands. -/
def Instr.wf : Instr → Bool
  | .incompleteFrame bits => decide (bits.length < 16)
  | .unknownCommand code _ => decide (11 ≤ code.toNat)
  | _ => true

end Sys2Proof
end

