-- ==== Sys2Proof/Tests/Slice0.lean ====
section
/-! SUPPORT. Tests: the check on a command's operands, the spec's own worked numbers, and for every statement a state and
operands that meet its hypotheses, clause by clause. -/
namespace Sys2Proof.Tests

open Sys2Proof Sys2Proof.Machine Sys2Proof.Safety

/-! ### The operand check -/

theorem test_wf_refuses_a_whole_frame : (Instr.incompleteFrame (List.replicate 16 true)).wf = false := by decide
theorem test_wf_takes_fifteen_bits : (Instr.incompleteFrame (List.replicate 15 true)).wf = true := by decide
theorem test_wf_refuses_a_known_code : (Instr.unknownCommand 10 0).wf = false := by decide
theorem test_wf_takes_code_eleven : (Instr.unknownCommand 11 0).wf = true := by decide
theorem test_words_spell_commands :
    decodeTableWord 16 0x100B = some (.item 11) ∧ decodeTableWord 16 0x5080 = some (.eelo 0x080)
      ∧ decodeTableWord 16 0xF001 = some (.unknownCommand 15 1) ∧ decodeTableWord 0 0 = none
      ∧ decodeTableWord 16 65536 = none := by decide

/-- Bits of a frame, the first shifted in first. -/
def bitsOf (l : List Nat) : List Bool := l.map (fun n => n == 1)

/-- ITEM 11, the word of 11.2.1, with an edge too many; EELO with H'80 of Table 11.3; and a frame cut at fifteen edges (R171). -/
theorem test_frames_bring_commands :
    frameCommand (bitsOf [0, 0, 0, 1, 0, 0, 0, 0, 0, 0, 0, 0, 1, 0, 1, 1, 1]) 0 none = .item 11
      ∧ frameCommand (bitsOf [0, 1, 0, 1, 0, 0, 0, 0, 1, 0, 0, 0, 0, 0, 0, 0]) 0 none = .eelo 0x080
      ∧ frameCommand (bitsOf [1, 0, 1, 0, 0, 0, 0, 0, 0, 0, 0, 0, 0, 0, 0, 0]) 9 none = .restart 0 9 none
      ∧ frameCommand (bitsOf [1, 0, 1, 1, 0, 0, 0, 0, 0, 0, 0, 0, 0, 0, 0, 0]) 0 none = .unknownCommand 11 0
      ∧ frameCommand (List.replicate 15 true) 0 none = .incompleteFrame (List.replicate 15 true) := by decide

/-! ### Small states -/

/-- Settings of one camera: those of the worked case of 6.5.1, with a pitch of 10 and a thin factor of 3. -/
def cam : CameraSettings :=
  { enabled := true, free := false, substitute := true, lengthCheck := false, inputDepth := 10, deep := false, fill := .black,
    pitch := 10, offset := 0, minInterval := 10, timeout := 500, fallback := 100, nominal := 256, windowStart := 0,
    windowWidth := 0, black := 256, gain := 320, lift := -100, low := 4, high := 250, peak := 3, thin := 3,
    nominalCount := 256, blackValue := 4 }

/-- Settings of a station with an encoder as in 3.3.1, a seam input, take-off under DELIVER and four cameras `c`. -/
def conf (c : CameraSettings) : Settings :=
  { encoder := true, reversed := false, num := 5, den := 2, encoderOffset := -500, seamInput := true, detectorOffset := 0,
    lockout := 1000, takeOff := true, deliverBroken := true,
    filters := Vector.replicate 8 { enabled := true, value := 0, mask := 0 }, cameras := Vector.replicate 4 c }

/-- A station in state `st` at time `now`, its link UP and its port sending an alignment run. -/
def on (st : StationState) (now : Time) : State :=
  { State.reset with
    time := now, ring := { State.reset.ring with link := .up },
    ctl := { State.reset.ctl with state := st, identity := some 0xAB01, configValid := true },
    store := { State.reset.store with settings := some (conf cam), readStart := none },
    dlv := { State.reset.dlv with active := true } }

/-- The same with the outbound port idle. -/
def idle (s : State) : State := { s with ring := { s.ring with aligning := false, idleUnits := 2 } }

/-- The same in this strip clock state, with this encoder state, following `n`. -/
def clocked (c : ClockState) (e : EncoderState) (n : Option Station) (s : State) : State :=
  { s with strip := { s.strip with clock := c, encoder := e, followed := n,
                                   source := match n with
                                     | some k => .station k
                                     | none => if c = .loc then .loc else .none } }

/-- The same with this beacon entry of station 3. -/
def beacon (b : BeaconEntry) (s : State) : State := { s with strip := { s.strip with table := put s.strip.table 3 b } }

/-- The same with this port of camera 0. -/
def port (p : CameraPort) (s : State) : State := s.onPort 0 (fun _ => p)

/-- The same with this trigger generator of camera 0. -/
def trig (t : Trigger) (s : State) : State := s.onTrig 0 (fun _ => t)

/-- The same with settings whose cameras are `c`. -/
def withCam (c : CameraSettings) (s : State) : State := { s with store := { s.store with settings := some (conf c) } }

/-- The header of an own parcel of the station `on`. -/
def own : OwnHeader := { source := 0, key := 0xAB01 }

/-- The header of a parcel of station 3. -/
def peer : OwnHeader := { source := 3, key := 0x0303 }

/-- A trigger record fired at `t`. -/
def fired (t : Time) : TriggerRecord := { tags := { coil := 1, nominal := 0, flags := 0 }, fired := t }

/-- A BEACON of station 3 with speed `v` and sequence `q`. -/
def beaconFrom (v : Speed) (q : Word16) : List Byte := beaconBytes peer 1000000 v 9 q 7 5000

/-- A LINE segment `k` of `n` from station 3, camera 1, of line `serial`, with payload 1, 2, 3. -/
def segment (serial : Word32) (k n : Nat) : List Byte :=
  lineBytes { header := peer, camera := 1, serial := serial, segIndex := k, segCount := n, coil := 7, nominal := 50, flags := 0,
              depth := 8, segPixels := 3, clips := 0, thinnedSince := 0, payload := [1, 2, 3] }

/-- The context that the first segment of line 9 of station 3, camera 1 has left, with `k` of `n` segments. -/
def assembly (k n : Nat) : Assembly :=
  { stream := 13, serial := 9, segCount := n, next := k, coil := 7, nominal := 50, flags := 0, clips := 0, thinnedSince := 0,
    depth := 8, pixels := 2048, hit := 0, blocks := [0], lastArrival := 5 }

/-- The same with context 0 assembling `a`, and this free list. -/
def assembling (a : Assembly) (free : List Block) (s : State) : State :=
  { s with take := { s.take with contexts := put s.take.contexts 0 (some a), free := free } }

/-- A delivery record of `n` pixels of depth 8. -/
def record (n : Nat) : DeliveryRecord :=
  { stream := 13, hit := 2, flags := 1, present := 1, segCount := 1, serial := 9, coil := 7, nominal := 50, depth := 8, pixels := n,
    clips := 0, thinnedSince := 0, completed := 5, blocks := [0] }

/-- The same with these delivery records. -/
def delivering (q : List DeliveryRecord) (s : State) : State := { s with take := { s.take with queue := q } }

/-! ### The spec's worked numbers -/

/-- The CRC of the nine characters 1 to 9 in the text's code (R180). -/
theorem test_crc : crc32 [0x31, 0x32, 0x33, 0x34, 0x35, 0x36, 0x37, 0x38, 0x39] = 0xFC891918 := by decide +kernel

/-- The residence time of 1.8.1 over a wrap of the station time. -/
theorem test_residence : unitsSince 13 4294967290 = 19 := by decide

/-- A strip unit before the updates of 3.3.1. -/
def scaling (count lastCount : Word32) (x : Coord) (residue : Word16) : StripUnit :=
  { StripUnit.reset false false with encoder := .good, count := count, lastCount := lastCount, x := x, residue := residue }

theorem test_scaling_forward :
    (fun u : StripUnit => (u.x, u.residue, u.windowAdvance, published (conf cam) u)) (scale (conf cam) (scaling 7 0 2000000 1))
      = (2000018, 0, 18, 1999518) := by decide +kernel
theorem test_scaling_backward :
    (fun u : StripUnit => (u.x, u.residue, u.windowAdvance)) (scale (conf cam) (scaling 4 7 2000018 0)) = (2000010, 1, -8) := by
  decide +kernel
theorem test_scaling_clamps :
    (fun u : StripUnit => (u.x, u.residue, u.windowAdvance, u.underrunClamps)) (scale (conf cam) (scaling 0 4 3 1))
      = (0, 0, -3, 1) := by decide +kernel

/-- Table 3.5, and the case below it. -/
theorem test_speed_smoothing :
    [(16384, 65), (16448, 63), (16368, 64)].map (fun (v, w) => v + floorDiv (w * 256 - v) 4) = [16448, 16368, 16372]
      ∧ (16447 : Int) + floorDiv (16384 - 16447) 4 = 16431 := by decide

/-- The followed entry of 3.8.1. -/
def followedEntry : BeaconEntry :=
  { condition := .fresh, coord := 1000000, speed := 16384, age := 37, receipt := 100, hopsUsed := 2, sequence := 5 }

theorem test_extrapolation :
    [1463, 19999, 25000, 199963, 200000].map (fun n => extrapolate (100 + n) followedEntry)
      = [1000150, 1002003, 1002503, 1020000, 1020000] := by decide +kernel
theorem test_extrapolation_backward :
    extrapolate 1500 { followedEntry with speed := -1000, age := 0, receipt := 0 } = 999990 := by decide +kernel

/-- Table 6.4, at ring depth 8 and at ring depth 16. -/
theorem test_conditioning :
    [700, 1000, 1023, 50, 0].map (conditioned cam) = [193, 250, 250, 4, 4]
      ∧ [700, 1000, 1023, 50, 0].map (clipped cam) = [false, true, true, true, true] := by decide
theorem test_conditioning_deep :
    [700, 1000, 1023, 50, 0].map (conditioned { cam with deep := true, low := 0, high := 4095 }) = [3080, 4095, 4095, 0, 0] := by
  decide

/-- Segments and parcel bytes of Table 7.1, from the payload bytes. -/
theorem test_segments :
    [1, 2000, 2048, 4000, 8000, 16384, 32768].map (fun b => (segmentCount b, b + 32 * segmentCount b))
      = [(1, 33), (1, 2032), (1, 2080), (2, 4064), (4, 8128), (8, 16640), (16, 33280)] := by decide

/-- Table 8.1 and the successive windows of 8.8. -/
theorem test_own_rate : smoothRate 300 2880 = 285 ∧ smoothRate 300 4880 = 300 := by decide

/-- Counts of R36: 0 for the successor, saturation for a repeated sequence. -/
theorem test_missed_counts :
    missedAfter 8 { RollEntry.blank with lastSequence := some 7, missed := 3 } = 3
      ∧ missedAfter 7 { RollEntry.blank with lastSequence := some 7 } = 255
      ∧ missedAfter 2 { RollEntry.blank with lastSequence := some 0xFFFF } = 2 := by decide

/-- Fields of the parcels built lie where Table 12.3 puts them. -/
theorem test_parcel_fields :
    (signonBytes own 0xAB01 { cameras := 5, encoder := true, seamInput := false, takeOff := true }).take 13
        = [6, 0xF0, 0xAB, 0x01, 0, 53, 7, 0, 0, 0xAB, 0x01, 5, 5]
      ∧ (markBytes peer 0x010203040506 0x0708).take 15 = [3, 0xF3, 3, 3, 0, 53, 7, 1, 2, 3, 4, 5, 6, 7, 8]
      ∧ (withCrc (easeBytes peer 64)).length = 64 := by decide +kernel

/-- The EEPROM of State.reset holds a valid record that enables nothing (log 8). -/
theorem test_default_record :
    recordValid defaultEeprom = true ∧ (recordSettings defaultEeprom).encoder = false
      ∧ (recordFaults defaultEeprom) = FaultFlags.clear := by decide +kernel

/-- Items 1, 3, 32 and 45 of a small state, added up from Table 12.6. -/
theorem test_packed_items :
    (serviceItem (on .running 5) 0 1).toNat = 3 * 16 + 128 + 2 * 256 + 1 * 1024 + 31 * 32768 + 31 * 1048576
      ∧ (serviceItem (on .running 5) 0 3).toNat = 0 ∧ (serviceItem (on .running 5) 0 32).toNat = 512
      ∧ (serviceItem (on .running 5) 2 45).toNat = 3 * 256 ∧ (serviceItem (on .running 5) 4 45).toNat = 0
      ∧ serviceItem (on .running 5) 0 30 = 0xFFFFFFFF := by decide +kernel

/-! ### Witnesses: resets, the queue and the service line -/

theorem test_witness_FrontCommandRuns :
    ({ on .running 5 with pending := [.dlvTake, .seamEdge] } : State).pending = .dlvTake :: [.seamEdge] := rfl

/-- A station in START with `n` words read. -/
def reading (n : Nat) : State := { State.reset with store := { State.reset.store with imageRead := n } }

/-- SV_OUT shifts out the reply register, the most significant bit at the first edge (R171). -/
theorem test_sv_out :
    svOut { State.reset with svc := { State.reset.svc with reply := 0x8001 } } true 0 = true
      ∧ svOut { State.reset with svc := { State.reset.svc with reply := 0x8001 } } true 1 = false
      ∧ svOut { State.reset with svc := { State.reset.svc with reply := 0x8001 } } true 15 = true
      ∧ svOut { State.reset with svc := { State.reset.svc with reply := 0xFFFF } } true 16 = false
      ∧ svOut { State.reset with svc := { State.reset.svc with reply := 0xFFFF } } false 0 = false := by decide +kernel

theorem test_witness_ServiceReplies :
    (List.replicate 15 true).length < 16 ∧ 16 ≤ (List.replicate 16 true).length ∧ 11 ≤ (11#4).toNat ∧ 11 ≤ (15#4).toNat
      ∧ (15 : Nat) < 16 ∧ 16 ≤ (16 : Nat) ∧ (65535 : Nat) < 65536 ∧ (8 : Nat) ≠ 16 ∧ (on .running 5).pending = []
      ∧ ({ on .running 5 with pending := [.dlvTake, .seamEdge] } : State).pending = .dlvTake :: [.seamEdge] := by decide

theorem test_witness_EmptyQueueStep :
    State.reset.pending = [] ∧ dueEvents State.reset = [] ∧ (on .running 0).store.readStart = none
      ∧ dueEvents (on .running 0) = [] ∧ ({ State.reset with time := 10 } : State).pending = []
      ∧ dueEvents { State.reset with time := 10 } ≠ [] ∧ (reading 7).store.readStart ≠ none ∧ (reading 7).store.imageRead < 128
      ∧ (reading 7).pending = [] ∧ dueEvents (reading 7) = [] ∧ 128 ≤ (reading 128).store.imageRead
      ∧ dueEvents (reading 128) = [] := by decide +kernel

/-- A station with a write in progress. -/
def writing : State :=
  { on .running 5 with svc := { ServiceLine.reset with write := some { address := 7, value := 9, began := 1 } } }

theorem test_witness_RestartActsOnEveryBlock :
    writing.svc.write.isSome = true ∧ (on .running 5).svc.write = none ∧ (clocked .loc .good none (on .running 5)).strip.clock = .loc
      ∧ (on .running 5).ring.link = .up := by decide

/-- Settings of one camera with the highest thin factor. -/
def thinCam : CameraSettings := { cam with thin := 16 }

/-- The widths of the packed items hold at their bounds, and an ease entry is live or not. -/
theorem test_witness_ServiceItemValues :
    LinesWithin State.reset ∧ State.reset.seg.control.length ≤ 16 ∧ State.reset.seam.list.length ≤ 8
      ∧ (∀ n : Station, State.reset.ease.table[n].live = false)
      ∧ ({ EaseUnit.reset with table := put EaseUnit.reset.table 3 ⟨64, 9, true⟩ } : EaseUnit).table[(3 : Station)].live = true
      ∧ (∀ m : Station, ({ EaseUnit.reset with table := put EaseUnit.reset.table 3 ⟨64, 9, true⟩ } : EaseUnit).table[m].live = true →
          64 ≤ ({ EaseUnit.reset with table := put EaseUnit.reset.table 3 ⟨64, 9, true⟩ } : EaseUnit).table[m].share.toNat)
      ∧ ((10005 : Time) - 5).toNat ≤ 10000
      ∧ State.reset.take.free.length ≤ 512 ∧ State.reset.take.queue.length ≤ 128 ∧ State.reset.take.queue = []
      ∧ (delivering [record 16384] (on .running 5)).take.queue = record 16384 :: [] ∧ wordCount (record 16384) < 65536
      ∧ (on .running 5).dlv.position < 65536
      ∧ (withCam thinCam (on .running 5)).camSettings 0 = some thinCam ∧ thinCam.thin ≤ 16
      ∧ (on .running 5).cams[(0 : Cam)].trig.fifo.length ≤ 4 ∧ (on .running 5).cams[(0 : Cam)].adm.phase < 16
      ∧ (on .running 5).cams[(0 : Cam)].port.lastLength < 65536 ∧ (on .running 5).cams[(0 : Cam)].port.locked.getD 0 < 65536
      ∧ (on .running 5).svc.snapshot.contents = none ∧ (on .running 5).svc.snapshot.functions = none
      ∧ ({ RollEntry.blank with contents := some (ownStatus (on .running 5) peer) } : RollEntry).contents
          = some (ownStatus (on .running 5) peer)
      ∧ ({ RollEntry.blank with functions := some (ownFunctions (on .running 5)) } : RollEntry).functions
          = some (ownFunctions (on .running 5)) := by
  refine ⟨?_, ?_⟩
  · unfold LinesWithin; decide
  · decide +kernel

theorem test_witness_RollSnapshot :
    (15#12).toNat = (15 : Station).val ∧ 15 < (16#12).toNat ∧ (∀ arg, Instr.dlvTake ≠ .roll arg)
      ∧ (∀ straps a b, Instr.dlvTake ≠ .powerOnReset straps a b) ∧ (∃ t, exec .dlvTake (on .start 0) = .next t)
      ∧ (on .running 5).svc.snapshot = (on .start 7).svc.snapshot := by
  exact ⟨by decide, by decide, by simp, by simp, ⟨_, rfl⟩, rfl⟩

/-- The same with the EEPROM address at `a`. -/
def addressed (a : Fin 128) (s : State) : State := { s with svc := { s.svc with address := a } }

theorem test_witness_EepromCommands :
    (127#12).toNat = (127 : Fin 128).val ∧ 127 < (128#12).toNat ∧ writing.svc.write.isSome = true
      ∧ State.reset.store.readStart.isSome = true ∧ State.reset.svc.write = none
      ∧ (addressed 2 (on .running 5)).svc.write = none ∧ (addressed 2 (on .running 5)).store.readStart = none
      ∧ (addressed 2 (on .running 5)).svc.address = 2 ∧ (addressed 3 (on .running 5)).svc.address = 3
      ∧ (addressed 4 (on .running 5)).svc.address ≠ 2 ∧ (addressed 4 (on .running 5)).svc.address ≠ 3
      ∧ writing.svc.write = some { address := 7, value := 9, began := 1 } ∧ (7 : Fin 128) ≠ 8 := by decide

/-! ### Witnesses: the link and arrivals -/

/-- A station whose link is SYNCING after `n` idle characters. -/
def syncing (n : Nat) (st : StationState) : State :=
  { on st 5 with ring := { RingPort.reset with link := .syncing, idleRun := n } }

theorem test_witness_LinkCharacters :
    (on .running 5).ring.link ≠ .syncing ∧ (syncing 62 .joining).ring.link = .syncing ∧ CharClass.data ≠ .idle
      ∧ (syncing 62 .joining).ring.idleRun < 63 ∧ (syncing 63 .joining).ring.idleRun = 63
      ∧ (syncing 63 .passOnly).ctl.state = .passOnly ∧ (syncing 63 .running).ctl.state ≠ .joining
      ∧ (syncing 63 .running).ctl.state ≠ .passOnly := by decide

theorem test_witness_UnsoundAndUnknownParcels :
    (on .start 5).ring.link = .up ∧ sound (receiveRun (on .start 5).ring.reception (List.replicate 10 0)) = false
      ∧ sound (receiveRun none (withCrc [7, 0, 0, 0, 0, 0, 7])) = true
      ∧ kindField (receiveRun none (withCrc [7, 0, 0, 0, 0, 0, 7])).bytes = none
      ∧ sound (receiveRun none (withCrc [2, 0, 0, 0, 0, 0, 7])) = true
      ∧ kindField (receiveRun none (withCrc [2, 0, 0, 0, 0, 0, 7])).bytes = some .beacon
      ∧ (receiveRun none (withCrc [2, 0, 0, 0, 0, 0, 7])).count ≠ 64
      ∧ kindField (receiveRun none (withCrc [1, 0, 0, 0, 0, 21, 7])).bytes = some .line
      ∧ (receiveRun none (withCrc ([1, 0, 0, 0, 0, 21, 7] ++ List.replicate 21 0))).count < 33
      ∧ sound (receiveRun none (withCrc ([1, 0, 0, 0, 0, 21, 7] ++ List.replicate 21 0))) = true
      ∧ sound (receiveRun none (withCrc [5, 0, 0, 0, 0, 0, 7])) = true
      ∧ (receiveRun none (withCrc [5, 0, 0, 0, 0, 0, 7])).count ≠ 128 := by decide +kernel

/-- A STATUS with sequence `q`. -/
def statusOf (h : OwnHeader) (q : Word16) : List Byte := statusBytes h { ownStatus (on .running 5) h with sequence := q, identity := 0x0303 }

/-- A record of a STATUS launched. -/
def launched (q : Word16) (s : State) : State := { s with ctl := { s.ctl with pendingReturn := [⟨6, 1⟩, ⟨q, 2⟩, ⟨9, 3⟩] } }

set_option maxRecDepth 8000 in
theorem test_witness_OwnParcelsAndOrphans :
    Brings (on .running 5) (withCrc (easeBytes own 64)) .ease (easeBytes own 64) ∧ OwnParcel (on .running 5) (easeBytes own 64)
      ∧ Brings (on .running 5) (withCrc (markBytes own 0 0)) .mark (markBytes own 0 0)
      ∧ Brings (on .joining 5) (withCrc (statusOf own 7)) .status (statusOf own 7) ∧ OwnParcel (on .joining 5) (statusOf own 7)
      ∧ field (statusOf own 7) 11 2 16 = 7 ∧ (launched 7 (on .joining 5)).ctl.pendingReturn = [⟨6, 1⟩] ++ ⟨7, 2⟩ :: [⟨9, 3⟩]
      ∧ (∀ r ∈ (launched 8 (on .joining 5)).ctl.pendingReturn, r.sequence ≠ field (statusOf own 7) 11 2 16)
      ∧ Brings (on .start 5) (withCrc (signonBytes own 0xAB01 ⟨0, false, false, false⟩)) .signon
          (signonBytes own 0xAB01 ⟨0, false, false, false⟩)
      ∧ (∃ p : List Byte, Brings (on .running 5) (withCrc p) .line p ∧ OwnParcel (on .running 5) p)
      ∧ (∃ p : List Byte, Brings (on .running 5) (withCrc p) .ease p ∧ ¬ OwnParcel (on .running 5) p ∧ hopsField p = 0) := by
  refine ⟨?_, ⟨?_, _, rfl, ?_⟩, ?_, ?_, ⟨?_, _, rfl, ?_⟩, ?_, ?_, ?_, ?_,
    ⟨lineBytes { header := own, camera := 1, serial := 9, segIndex := 0, segCount := 1, coil := 7, nominal := 50, flags := 0,
                 depth := 8, segPixels := 1, clips := 0, thinnedSince := 0, payload := [1] }, ?_, ?_, _, rfl, ?_⟩,
    ⟨putBytes (easeBytes peer 64) 1 [0x03], ?_, fun h => absurd h.1 (by decide +kernel), ?_⟩⟩
  all_goals first | (unfold Brings; decide +kernel) | decide +kernel

/-- A station whose transit buffer holds 16,384 - 64 + `n` bytes. -/
def transitFull (n : Nat) : State :=
  { on .running 5 with
    ring := { RingPort.reset with link := .up, transit := [{ content := List.replicate (16384 - 68 + n) 0, arrival := 1 }] } }

theorem test_witness_PeerParcelsAreForwarded :
    ReceptionFresh (on .running 5) ∧ Brings (on .running 5) (withCrc (beaconFrom 5 6)) .beacon (beaconFrom 5 6)
      ∧ ¬ OwnParcel (on .running 5) (beaconFrom 5 6) ∧ hopsField (beaconFrom 5 6) ≠ 0
      ∧ Brings (on .start 5) (withCrc (segment 9 0 1)) .line (segment 9 0 1) ∧ ¬ OwnParcel (on .start 5) (segment 9 0 1)
      ∧ 19 ≤ (beaconFrom 5 6).length
      ∧ transitOccupancy (transitFull 0).ring.transit + ((beaconFrom 5 6).length + 4) ≤ 16384
      ∧ 16384 < transitOccupancy (transitFull 1).ring.transit + ((beaconFrom 5 6).length + 4) := by
  refine ⟨Or.inl rfl, ?_, fun h => absurd h.1 (by decide +kernel), ?_, ?_, fun h => absurd h.1 (by decide +kernel), ?_, ?_, ?_⟩
  all_goals first | (unfold Brings; decide +kernel) | decide +kernel

theorem test_witness_PeerSignonAndStatusWriteTheRoll :
    sourceField (statusOf peer 7) ≠ (on .joining 5).ctl.number ∧ (on .joining 5).ctl.state ≠ .start
      ∧ identityField (statusOf peer 7) = 0x0303 := by decide +kernel

theorem test_witness_DuplicateNumberIsSeen :
    sourceField (statusOf own 7) = (on .running 5).ctl.number ∧ (on .start 5).ctl.state = .start
      ∧ some (identityField (signonBytes own 0xAB01 ⟨0, false, false, false⟩)) = (on .running 5).ctl.identity
      ∧ some (identityField (statusOf own 7)) ≠ (on .running 5).ctl.identity ∧ (on .duplicate 5).ctl.state = .duplicate
      ∧ (on .passOnly 5).ctl.state ≠ .start ∧ (on .passOnly 5).ctl.state ≠ .duplicate := by decide +kernel

theorem test_witness_BeaconOffersFillTheTable :
    sourceField (beaconFrom 5 6) = 3 ∧ (on .passOnly 5).ctl.state = .passOnly
      ∧ (beacon followedEntry (on .running 5)).strip.table[(3 : Station)].condition ≠ .empty
      ∧ ¬ (1 ≤ (beaconSeq (beaconFrom 5 5) - followedEntry.sequence).toNat
            ∧ (beaconSeq (beaconFrom 5 5) - followedEntry.sequence).toNat ≤ 32767)
      ∧ (1 ≤ (beaconSeq (beaconFrom 5 6) - followedEntry.sequence).toNat
            ∧ (beaconSeq (beaconFrom 5 6) - followedEntry.sequence).toNat ≤ 32767)
      ∧ (beaconSeq (beaconFrom 5 32772) - followedEntry.sequence).toNat = 32767
      ∧ (on .running 5).strip.table[(3 : Station)].condition = .empty
      ∧ (clocked .loc .good none (on .running 5)).strip.clock = .loc
      ∧ (clocked .following .none (some 3) (on .running 5)).strip.followed = some 3
      ∧ (clocked .following .none (some 4) (on .running 5)).strip.followed ≠ some 3
      ∧ (clocked .coasting .none (some 3) (on .running 5)).strip.source = .station 3
      ∧ (clocked .held .none none (on .running 5)).strip.clock = .held ∧ (on .running 5).strip.source = .none := by decide +kernel

/-- The same with this seam list. -/
def seams (l : List SeamEntry) (s : State) : State := { s with seam := { s.seam with list := l } }

/-- A seam entry at `c` that no camera has passed. -/
def seamAt (c : Coord) : SeamEntry := { coord := c, coil := 1, origin := 3, passed := 0 }

/-- Eight seams, 2,001 su apart. -/
def eight : List SeamEntry := (List.range 8).map (fun k => seamAt (BitVec.ofNat 48 (10000 + 2001 * k)))

theorem test_witness_SeamRecordsAreTaken :
    (on .start 5).ctl.state = .start ∧ (on .running 5).ctl.state ≠ .start ∧ (on .running 5).ctl.state ≠ .passOnly
      ∧ (∃ e ∈ eight, ((e.coord.toNat : Int) - (12000 : Nat)).natAbs ≤ 2000)
      ∧ (∀ e ∈ eight, 2000 < ((e.coord.toNat : Int) - (7999 : Nat)).natAbs) ∧ 8 ≤ eight.length
      ∧ (∀ e ∈ eight.drop 1, 2000 < ((e.coord.toNat : Int) - (10000 : Nat)).natAbs) ∧ (eight.drop 1).length < 8
      ∧ SeamListOrdered (seams (eight.drop 1) (on .running 5)) := by
  refine ⟨?_, ?_, ?_, ?_, ?_, ?_, ?_, ?_, ?_⟩
  case refine_9 => unfold SeamListOrdered; decide +kernel
  all_goals decide +kernel

/-- The same with line parcels that wait. -/
def waiting (s : State) : State :=
  { s with seg := { s.seg with lines := [
      { header := own, camera := 1, serial := 9, segIndex := 0, segCount := 1, coil := 7, nominal := 50, flags := 0, depth := 8,
        segPixels := 1, clips := 0, thinnedSince := 0, payload := [1] }] } }

/-- The same with `u` bytes sent in the window and an ease entry of station 3. -/
def eased (u : Nat) (e : EaseEntry) (s : State) : State :=
  { s with ease := { s.ease with bytes := u, table := put s.ease.table 3 e } }

/-- An entry of the least share, with expiry 10,003. -/
def leastEase : EaseEntry := { share := 64, expiry := 10003, live := true }

theorem test_witness_EaseTableEntries :
    sourceField (easeBytes peer 64) = 3 ∧ sourceField (easeBytes own 64) = (on .running 5).ctl.number
      ∧ (eased 2000 leastEase (waiting (on .running 5))).seg.lines ≠ []
      ∧ limiterAllows (eased 2000 leastEase (waiting (on .running 5))).ease = false
      ∧ limiterAllows (eased 2000 { leastEase with share := 200 } (waiting (on .running 5))).ease = true
      ∧ limiterAllows (eased 2000 { leastEase with live := false } (on .running 10003)).ease = true
      ∧ (eased 2000 leastEase (waiting (on .running 10003))).ease.table[(3 : Station)].live = true
      ∧ 10000 ≤ ((10003 : Time) - (leastEase.expiry - 10000)).toNat ∧ ¬ 10000 ≤ ((10002 : Time) - (leastEase.expiry - 10000)).toNat
      ∧ (on .running 5).seg.lines = [] ∧ limiterAllows (on .running 5).ease = true := by decide +kernel

/-! ### Witnesses: the take-off unit, the delivery port and the outbound port -/

theorem test_witness_SegmentsArePlaced :
    (on .running 5).store.settings = some (conf cam) ∧ (conf cam).takeOff = true ∧ (on .running 5).ctl.state.runs = true
      ∧ (segmentOf (segment 9 0 1)).camera ≤ 3 ∧ filterHit (conf cam) (streamOf (segmentOf (segment 9 0 1))) = some 0
      ∧ consistent (segmentOf (segment 9 0 1)) = true ∧ consistent (segmentOf (segment 9 1 2)) = true
      ∧ consistent (segmentOf (segment 9 15 16)) = true
      ∧ (on .running 5).take.free = 0 :: (List.finRange 512).drop 1
      ∧ (∀ k : Fin 32, (on .running 5).take.contexts[k] = none)
      ∧ (assembling (assembly 1 2) [5] (on .running 5)).take.contexts[(0 : Fin 32)] = some (assembly 1 2)
      ∧ (assembly 1 2).stream = streamOf (segmentOf (segment 9 1 2)) ∧ (assembly 1 2).serial = (segmentOf (segment 9 1 2)).serial
      ∧ (assembly 1 2).next = (segmentOf (segment 9 1 2)).index ∧ (assembly 1 2).next + 1 = (assembly 1 2).segCount
      ∧ (assembly 1 3).next + 1 ≠ (assembly 1 3).segCount := by decide +kernel

theorem test_witness_one_context (s : State) (h : ∀ k : Fin 32, s.take.contexts[k] = none) (a : Assembly) (free : List Block) :
    OneContextPerStream (assembling a free s) := by
  intro j k x y hj hk _
  have other : ∀ i : Fin 32, i ≠ 0 → (assembling a free s).take.contexts[i] = none := by
    intro i hi
    have := h i
    simp only [assembling, put, Fin.getElem_fin] at this ⊢
    rw [Vector.getElem_set_ne _ _ (fun e => hi (Fin.ext e.symm))]
    exact this
  by_cases hj0 : j = 0 <;> by_cases hk0 : k = 0
  · rw [hj0, hk0]
  · rw [other k hk0] at hk; cases hk
  · rw [other j hj0] at hj; cases hj
  · rw [other j hj0] at hj; cases hj

/-- Settings whose filters match stream 12 alone. -/
def otherStream : Settings := { conf cam with filters := Vector.replicate 8 { enabled := true, value := 12, mask := 63 } }

/-- The same with every block taken. -/
def fullStore (s : State) : State := { s with take := { s.take with free := [] } }

theorem test_witness_SegmentsNotPlaced :
    (on .start 5).ctl.state.runs = false ∧ State.reset.takeOffEnabled = false
      ∧ 3 < (segmentOf (putBytes (segment 9 0 1) 7 [4])).camera
      ∧ (∀ i : Fin 8, otherStream.filters[i].enabled = true →
          (streamOf (segmentOf (segment 9 0 1)) ^^^ otherStream.filters[i].value) &&& otherStream.filters[i].mask ≠ 0)
      ∧ consistent (segmentOf (segment 9 1 1)) = false ∧ consistent (segmentOf (segment 9 0 17)) = false
      ∧ consistent (segmentOf (segment 9 0 0)) = false
      ∧ (segmentOf (segment 9 1 2)).index ≠ 0 ∧ (segmentOf (segment 9 0 1)).index = 0 ∧ (on .duplicate 5).ctl.state = .duplicate
      ∧ (segmentOf (segment 9 1 2)).index ≠ (assembly 2 3).next ∧ (segmentOf (segment 9 1 2)).index = (assembly 1 2).next
      ∧ (assembling (assembly 1 2) [] (on .running 5)).take.free = [] ∧ (assembly 1 2).serial ≠ (segmentOf (segment 10 1 2)).serial
      ∧ (assembly 1 2).serial ≠ (segmentOf (segment 10 0 1)).serial
      ∧ consistent (segmentOf (segment 9 0 1)) = true ∧ (on .running 5).ctl.state ≠ .duplicate
      ∧ (fullStore (on .running 5)).take.free = [] ∧ (fullStore (on .running 5)).take.contexts[(0 : Fin 32)] = none := by
  decide +kernel

theorem test_witness_LinesAreBroken :
    (assembling (assembly 1 2) [] (on .running 50005)).take.contexts[(0 : Fin 32)] = some (assembly 1 2)
      ∧ 50000 ≤ ((50005 : Time) - (assembly 1 2).lastArrival).toNat ∧ ((50004 : Time) - (assembly 1 2).lastArrival).toNat < 50000
      ∧ (on .running 5).take.contexts[(0 : Fin 32)] = none ∧ (on .passOnly 5).ctl.state.runs = false
      ∧ (assembly 0 2).next = 0 ∧ 1 ≤ (assembly 1 2).next
      ∧ (delivering (List.replicate 127 (record 8)) (on .running 5)).take.queue.length < 128
      ∧ 128 ≤ (delivering (List.replicate 128 (record 8)) (on .running 5)).take.queue.length := by decide +kernel

/-- The same with the word position at `n` and DLV_HOLD at `level`. -/
def positioned (n : Nat) (level : Bool) (s : State) : State := { s with dlv := { s.dlv with position := n, holdPin := level } }

theorem test_witness_DeliveryPortRequests :
    State.reset.dlv.active = false ∧ (on .running 5).dlv.active = true ∧ (on .running 5).take.queue = []
      ∧ (positioned 3 true (delivering [record 8] (on .running 5))).dlv.holdPin = true
      ∧ (positioned 3 false (delivering [record 8] (on .running 5))).dlv.holdPin = false
      ∧ (delivering [record 8] (on .running 5)).take.queue = record 8 :: []
      ∧ (positioned 3 false (delivering [record 8] (on .running 5))).dlv.position + 1 ≠ wordCount (record 8)
      ∧ (positioned 4 false (delivering [record 8] (on .running 5))).dlv.position + 1 = wordCount (record 8) := by decide +kernel

theorem test_witness_DeliveryPortWords :
    (on .running 5).dlv.active = true ∧ State.reset.dlv.active = false ∧ (on .running 5).take.queue = []
      ∧ (delivering [record 8] (on .running 5)).take.queue = record 8 :: [] ∧ (record 8).depth = 8
      ∧ ({ record 8 with depth := 16 } : DeliveryRecord).depth = 16 ∧ (record 16384).present ≤ 16 ∧ (record 16384).segCount ≤ 16
      ∧ (record 16384).depth ≤ 16 ∧ (record 16384).pixels ≤ 16384 ∧ wordCount (record 9) = 6
      ∧ (record 8).blocks[2047 / 2048]? = some 0
      ∧ ({ record 2048 with depth := 16, blocks := [4, 9] } : DeliveryRecord).blocks[2 * 1024 / 2048]? = some 9 := by
  decide +kernel

/-- The same with this control queue. -/
def queued (q : List ControlBody) (s : State) : State :=
  { s with seg := { s.seg with control := q.map (fun b => { header := own, body := b }) } }

theorem test_witness_ControlRequests :
    (queued [.mark 1 1, .status, .ease 64] (on .running 5)).seg.control
        = [⟨own, .mark 1 1⟩] ++ ⟨own, .status⟩ :: [⟨own, .ease 64⟩]
      ∧ (⟨own, .status⟩ : ControlParcel).body.kind = ControlBody.status.kind
      ∧ (∀ x ∈ ([⟨own, .mark 1 1⟩] : List ControlParcel), x.body.kind ≠ ControlBody.status.kind)
      ∧ (∀ x ∈ (queued [.mark 1 1] (on .running 5)).seg.control, x.body.kind ≠ ControlBody.status.kind)
      ∧ queuedOf .mark (queued (List.replicate 11 (.mark 1 1)) (on .running 5)) < 12
      ∧ 12 ≤ queuedOf .mark (queued (List.replicate 12 (.mark 1 1)) (on .running 5))
      ∧ (on .running 5).ctl.identity = some 0xAB01 := by decide +kernel

/-- A station whose transit buffer holds `n` bytes. -/
def transit (n : Nat) (s : State) : State :=
  { s with ring := { s.ring with transit := [{ content := List.replicate (n - 4) 0, arrival := 1 }] } }

theorem test_witness_SchedulerChoosesInOrder :
    8192 < transitOccupancy (transit 8193 (on .running 5)).ring.transit
      ∧ transitOccupancy (transit 8192 (on .running 5)).ring.transit ≤ 8192
      ∧ (queued [.mark 1 1, .status] (on .duplicate 5)).seg.control.dropWhile
          (fun p => !controlAllowed .duplicate p.body) = [⟨own, .status⟩]
      ∧ (queued [.mark 1 1] (on .duplicate 5)).seg.control.dropWhile (fun p => !controlAllowed .duplicate p.body) = []
      ∧ (on .running 5).ctl.state ≠ .start ∧ (waiting (on .ringOpen 5)).seg.lines ≠ [] ∧ limiterAllows (on .ringOpen 5).ease = true
      ∧ limiterAllows (eased 2000 leastEase (waiting (on .running 5))).ease = false ∧ (on .running 5).ring.transit = []
      ∧ kindField (beaconFrom 5 6) = some .beacon ∧ 19 ≤ (beaconFrom 5 6).length
      ∧ kindField (segment 9 0 1) ≠ some .beacon := by
  decide +kernel

theorem test_witness_ControlParcelLaunches :
    (launched 7 (on .running 5)).ctl.pendingReturn.length < 4
      ∧ 4 ≤ ({ StationControl.reset 0 with pendingReturn := List.replicate 4 ⟨1, 1⟩ } : StationControl).pendingReturn.length
      ∧ (on .running 5).ctl.identity = some 0xAB01
      ∧ (clocked .following .none (some 3) (on .running 5)).strip.clock = .following
      ∧ (clocked .coasting .none (some 3) (on .running 5)).strip.followed = some 3
      ∧ (clocked .held .none (some 3) (on .running 5)).strip.clock = .held
      ∧ (clocked .held .none (some 3) (on .running 5)).strip.source = .station 3
      ∧ (∀ n, (clocked .held .none none (on .running 5)).strip.source ≠ .station n)
      ∧ (clocked .loc .good none (on .running 5)).strip.clock = .loc ∧ (on .running 5).strip.clock = .none
      ∧ 7 + 5 < (easeBytes own 64).length ∧ 8 * (5 + 1) ≤ 48
      ∧ (ownStatus (on .running 5) own).source = own.source ∧ (ownStatus (on .running 5) own).originKey = own.key
      ∧ (List.replicate 2048 (0 : Byte)).length ≤ 2048 := by
  decide +kernel

/-- A station that has been sending 123 bytes since time 4. -/
def sending (now : Time) : State :=
  { on .running now with ring := { RingPort.reset with
      aligning := false, began := 4, outbound := some { queue := .transit, bytes := List.replicate 123 0 } } }

theorem test_witness_PortComesFree :
    (sending 4).ring.outbound.isSome = true ∧ ((4 : Time) - (sending 4).ring.began).toNat < (123 + 2) / 125
      ∧ (123 + 2) / 125 ≤ ((5 : Time) - (sending 5).ring.began).toNat ∧ (on .running 5).ring.outbound = none
      ∧ (on .running 5).ring.aligning = true ∧ (idle (on .running 5)).ring.outbound = none
      ∧ (idle (on .running 5)).ring.aligning = false ∧ 2 ≤ (idle (on .running 5)).ring.idleUnits
      ∧ ({ RingPort.reset with idleUnits := 1 } : RingPort).idleUnits < 2
      ∧ ¬ PortBusy (idle (on .running 5)) ∧ PortBusy (on .running 5) := by
  refine ⟨?_, ?_, ?_, ?_, ?_, ?_, ?_, ?_, ?_, ?_, Or.inr rfl⟩
  case refine_10 => unfold PortBusy; decide
  all_goals decide

/-! ### Witnesses: START and the timers of station control -/

/-- A station in START at time `now` with this EEPROM. -/
def starting (now : Time) (m : Vector Word16 128) : State :=
  { State.reset with time := now, store := { State.reset.store with eeprom := m } }

theorem test_witness_ReadFindsNoValidRecord :
    (on .running 5).store.readStart = none ∧ (starting 19999 defaultEeprom).store.readStart = some 0
      ∧ ((starting 19999 defaultEeprom).time - 0).toNat < 20000
      ∧ 20000 ≤ ((starting 20000 (Vector.replicate 128 0)).time - 0).toNat
      ∧ recordValid (starting 20000 (Vector.replicate 128 0)).store.eeprom = false := by decide +kernel

/-- A valid record that enables an encoder of scale 5 to 2. -/
def encoderRecord : Vector Word16 128 := (((defaultEeprom.set 4 0x8000).set 6 5).set 7 2).set 127 0x91D8

theorem test_witness_ReadFindsAValidRecord :
    (starting 20000 defaultEeprom).store.readStart = some 0 ∧ 20000 ≤ ((starting 20000 defaultEeprom).time - 0).toNat
      ∧ recordValid (starting 20000 defaultEeprom).store.eeprom = true
      ∧ (recordSettings defaultEeprom).encoder = false ∧ recordValid encoderRecord = true
      ∧ (recordSettings encoderRecord).encoder = true ∧ (starting 20000 encoderRecord).strip.encoder = .none
      ∧ (clocked .loc .good none (starting 20000 encoderRecord)).strip.encoder ≠ .none
      ∧ (starting 20000 encoderRecord).ring.link = .dark ∧ (on .start 5).ring.link = .up
      ∧ (syncing 3 .start).ring.link = .syncing ∧ (starting 20000 encoderRecord).seam.latest = none
      ∧ ({ SeamUnit.reset with latest := some ⟨7, 1, 3⟩ } : SeamUnit).latest = some ⟨7, 1, 3⟩ := by decide +kernel

theorem test_witness_RecordLayout :
    (∀ j : Fin 128, (fun i => wordAt encoderRecord i) j.val = encoderRecord[j])
      ∧ (∀ k, (fun k => wordAt encoderRecord (22 + 19 * (3 : Cam).val + k)) k
          = (fun i => wordAt encoderRecord i) (22 + 19 * (3 : Cam).val + k)) :=
  ⟨by decide +kernel, fun _ => rfl⟩

theorem test_witness_RequestTimers :
    (on .running 5).ctl.signonTimer = none
      ∧ ({ StationControl.reset 0 with signonTimer := some 7, statusTimer := some 7 } : StationControl).signonTimer = some 7
      ∧ (on .running 5).ctl.statusTimer = none ∧ (on .running 5).strip.beaconTimer = none
      ∧ ({ StripUnit.reset false false with beaconTimer := some 7 } : StripUnit).beaconTimer = some 7
      ∧ (on .joining 5).encoderStation = true ∧ (clocked .loc .good none (on .joining 5)).strip.clock = .loc
      ∧ ({ StripUnit.reset false false with aligned := true } : StripUnit).aligned = true ∧ (on .joining 5).ctl.state = .joining
      ∧ (on .joining 5).strip.aligned = false ∧ State.reset.store.settings = none
      ∧ (on .joining 5).store.settings = some (conf cam) := by decide

theorem test_witness_RollAndReturnExpiries :
    (on .running 5).ctl.pendingReturn = [] ∧ (launched 7 (on .running 5)).ctl.pendingReturn = ⟨6, 1⟩ :: [⟨7, 2⟩, ⟨9, 3⟩] := by decide

/-! ### Witnesses: the strip position unit -/

/-- A station with this encoder pair held and this list of illegal steps. -/
def pair (a b : Bool) (l : List Time) (s : State) : State :=
  { s with strip := { s.strip with heldA := a, heldB := b, illegal := l } }

theorem test_witness_EncoderStepsCount :
    (¬ ∃ t, State.reset.store.settings = some t ∧ t.reversed = true)
      ∧ (∃ t, ({ on .running 5 with store := { (on .running 5).store with
          settings := some { conf cam with reversed := true } } } : State).store.settings = some t ∧ t.reversed = true)
      ∧ ((pair false true [] (on .running 5)).strip.heldA, (pair false true [] (on .running 5)).strip.heldB, true, true)
          ∈ [(false, false, false, true), (false, true, true, true), (true, true, true, false), (true, false, false, false)] := by
  refine ⟨?_, ⟨_, rfl, rfl⟩, by decide⟩
  rintro ⟨t, h, _⟩
  cases h

/-- Sixteen illegal steps would be: fifteen so far, the oldest at time 1. -/
def fifteen : List Time := (List.range 15).map (fun k => BitVec.ofNat 32 (k + 1))

theorem test_witness_IllegalEncoderSteps :
    true ≠ (pair false false fifteen (on .running 10000)).strip.heldA
      ∧ true ≠ (pair false false fifteen (on .running 10000)).strip.heldB
      ∧ ((fifteen ++ [10000]).drop (fifteen.length + 1 - 16)).length = 16
      ∧ ((fifteen ++ [10000]).drop (fifteen.length + 1 - 16)).head? = some 1 ∧ ((10000 : Time) - 1).toNat < 10000
      ∧ 10000 ≤ ((10001 : Time) - 1).toNat ∧ (([] ++ [7] : List Time).drop (0 + 1 - 16)).length < 16
      ∧ (clocked .loc .good none (on .running 5)).strip.encoder = .good
      ∧ (clocked .held .good none (on .running 5)).strip.clock ≠ .loc
      ∧ bestFresh (clocked .loc .good none (on .running 5)).strip.table = none
      ∧ bestFresh (beacon followedEntry (clocked .loc .good none (on .running 5))).strip.table = some 3
      ∧ (clocked .loc .good none (on .running 5)).strip.source = .loc ∧ (on .running 5).strip.encoder = .none := by decide +kernel

theorem test_witness_EncoderReturnsToGood :
    (on .running 5).strip.encoder ≠ .fault ∧ (pair true true [1, 7] (clocked .held .fault none (on .running 5))).strip.encoder = .fault
      ∧ (pair true true [1, 7] (on .running 5)).strip.illegal.getLast? = some 7 ∧ 100000 ≤ ((100007 : Time) - 7).toNat
      ∧ ((100006 : Time) - 7).toNat < 100000 ∧ (on .running 5).store.settings = some (conf cam)
      ∧ (on .running 5).strip.source = .none ∧ (clocked .coasting .fault (some 3) (on .running 5)).strip.source = .station 3 := by
  decide +kernel

theorem test_witness_SpeedWindowAndIndexPulse :
    ((639 : Time) - (on .running 639).strip.windowTimer).toNat < 640 ∧ 640 ≤ ((640 : Time) - (on .running 640).strip.windowTimer).toNat
      ∧ (clocked .loc .good none (on .running 640)).strip.clock = .loc ∧ (on .running 640).strip.clock ≠ .loc := by decide

theorem test_witness_BeaconEntriesAge :
    ¬ (followedEntry.condition = .fresh ∧ 20000 ≤ ((20099 : Time) - followedEntry.receipt).toNat)
      ∧ followedEntry.condition = .fresh ∧ 20000 ≤ ((20100 : Time) - followedEntry.receipt).toNat
      ∧ 200000 ≤ ((200100 : Time) - followedEntry.receipt).toNat
      ∧ (beacon followedEntry (clocked .following .none (some 3) (on .running 20100))).strip.table[(3 : Station)] = followedEntry
      ∧ (clocked .following .none (some 3) (on .running 20100)).strip.clock = .following
      ∧ (clocked .following .none (some 3) (on .running 20100)).strip.followed = some 3
      ∧ (clocked .following .none (some 3) (on .running 20100)).strip.source = .station 3
      ∧ bestFreshBut (beacon followedEntry (on .running 20100)).strip.table 3 = none
      ∧ bestFreshBut (beacon followedEntry (on .running 20100)).strip.table 4 = some 3
      ∧ (clocked .coasting .none (some 3) (on .running 20100)).strip.clock = .coasting
      ∧ ¬ ((on .running 20100).strip.clock = .following ∧ (on .running 20100).strip.followed = some 3) := by decide +kernel

theorem test_witness_AlignmentEnds :
    (on .running 5).strip.alignStart = none
      ∧ ({ StripUnit.reset false false with alignStart := some 7 } : StripUnit).alignStart = some 7
      ∧ ((50006 : Time) - 7).toNat < 50000 ∧ 50000 ≤ ((50007 : Time) - 7).toNat
      ∧ (on .joining 50007).store.settings = some (conf cam) ∧ bestFresh (on .joining 5).strip.table = none
      ∧ bestFresh (beacon followedEntry (on .joining 5)).strip.table = some 3 := by decide +kernel

theorem test_witness_CoordinateUpdateOfTheStrip :
    ((9 : Time) - (on .running 9).strip.updateTimer).toNat < 10 ∧ 10 ≤ ((10 : Time) - (on .running 10).strip.updateTimer).toNat
      ∧ (on .running 10).strip.encoder ≠ .good ∧ (clocked .loc .good none (on .running 10)).strip.encoder = .good
      ∧ (clocked .loc .good none (on .running 10)).strip.clock = .loc
      ∧ (clocked .following .none (some 3) (on .running 10)).strip.followed = some 3
      ∧ (clocked .held .none none (on .running 10)).strip.clock = .held ∧ (on .running 10).strip.clock = .none := by decide

/-! ### Witnesses: seams -/

/-- The same with the estimate at `x`, the lockout end at 1,000 and these captures. -/
def captured (x : Coord) (c0 c1 : Option Capture) (s : State) : State :=
  { s with strip := { s.strip with xhat := x },
           seam := { s.seam with lockoutEnd := 1000, capture0 := c0, capture1 := c1, olderIsOne := c0.isSome && c1.isSome } }

theorem test_witness_SeamEdgesAndCaptures :
    (on .start 5).ctl.state.runs = false ∧ State.reset.seamStation = false ∧ (on .running 5).ctl.state.runs = true
      ∧ (on .running 5).store.settings = some (conf cam) ∧ (conf cam).seamInput = true
      ∧ (captured 999 none none (on .running 5)).strip.xhat.toNat < (captured 999 none none (on .running 5)).seam.lockoutEnd.toNat
      ∧ (captured 1000 none none (on .running 5)).seam.lockoutEnd.toNat ≤ (captured 1000 none none (on .running 5)).strip.xhat.toNat
      ∧ (captured 1000 none none (on .running 5)).seam.capture0 = none
      ∧ (captured 1000 (some ⟨7, .loc⟩) none (on .running 5)).seam.capture0 ≠ none
      ∧ (captured 1000 (some ⟨7, .loc⟩) (some ⟨8, .loc⟩) (on .running 5)).seam.capture1 ≠ none
      ∧ (captured 1000 (some ⟨7, .loc⟩) (some ⟨8, .loc⟩) (on .running 5)).seam.olderIsOne = true
      ∧ (on .running 5).camEnabled 0 = true ∧ (∀ i : Cam, State.reset.camEnabled i = false)
      ∧ (⟨7, .held⟩ : Capture).clock = .held ∧ (⟨7, .coasting⟩ : Capture).clock ≠ .held ∧ (⟨7, .coasting⟩ : Capture).clock ≠ .none
      ∧ (clocked .loc .good none (on .running 5)).strip.clock ≠ .held ∧ (on .running 5).strip.clock = .none := by decide +kernel

theorem test_witness_CamerasPassSeams :
    (∀ e ∈ (seams [seamAt 5001] (on .running 5)).seam.list,
        ¬ (e.passed.getLsbD (0 : Cam).val = false ∧ (on .running 5).cams[(0 : Cam)].trig.origin.toNat < e.coord.toNat
          ∧ e.coord.toNat ≤ (5000 : Coord).toNat))
      ∧ SeamListOrdered (seams [seamAt 1000, seamAt 5000] (on .running 5)) ∧ (on .running 5).camEnabled 0 = true
      ∧ (seamAt 5000).passed.getLsbD (0 : Cam).val = false
      ∧ (on .running 5).cams[(0 : Cam)].trig.origin.toNat < (seamAt 5000).coord.toNat
      ∧ (seamAt 5000).coord.toNat ≤ (5000 : Coord).toNat
      ∧ (∀ m ∈ [seamAt 1000, seamAt 5000], m.coord.toNat ≤ (seamAt 5000).coord.toNat) := by
  refine ⟨?_, ?_, ?_, ?_, ?_, ?_, ?_⟩
  case refine_2 => unfold SeamListOrdered; decide +kernel
  all_goals decide +kernel

/-! ### Witnesses: cameras -/

theorem test_witness_CamerasTrigger :
    (on .start 5).ctl.state.runs = false ∧ State.reset.camEnabled 0 = false ∧ (on .running 500).camSettings 0 = some cam
      ∧ cam.enabled = true ∧ (clocked .following .none (some 3) (on .running 500)).strip.clock = .following
      ∧ ({ cam with free := true } : CameraSettings).free = true ∧ cam.free = false ∧ Trigger.reset.nLast < (0 : Nat)
      ∧ ((0 : Nat) : Int) ≤ ({ Trigger.reset with nLast := 0 } : Trigger).nLast
      ∧ (∃ l, ({ Trigger.reset with lastTrigger := some 491 } : Trigger).lastTrigger = some l
          ∧ ((500 : Time) - l).toNat < cam.minInterval)
      ∧ ¬ ((500 : Time) - 490).toNat < cam.minInterval
      ∧ 4 ≤ ({ Trigger.reset with fifo := List.replicate 4 (fired 1) } : Trigger).fifo.length
      ∧ ({ Trigger.reset with fifo := List.replicate 3 (fired 1) } : Trigger).fifo.length < 4
      ∧ (on .running 500).strip.clock = .none ∧ 0 < cam.fallback ∧ cam.fallback ≤ ((500 : Time) - 400).toNat
      ∧ ¬ cam.fallback ≤ ((500 : Time) - 401).toNat
      ∧ beyondFirstCoil .following 4294967296 .reset = true ∧ beyondFirstCoil .following 4294967295 .reset = false := by
  refine ⟨?_, ?_, ?_, ?_, ?_, ?_, ?_, ?_, ?_, ⟨491, rfl, ?_⟩, ?_⟩
  all_goals decide +kernel

/-- Beyond the top of coil 0 a camera that follows fires nothing before its first seam (R92), and fires after it and under LOCAL. -/
theorem test_beyond_first_coil :
    (positionTrigger 500 .following cam 4294967296 .reset).fifo = []
      ∧ (positionTrigger 500 .following cam 4294967296 .reset).current = 4294967295
      ∧ (positionTrigger 500 .following cam 4294967296 { Trigger.reset with coil := 1, origin := 4294967200 }).fifo.length = 1
      ∧ (positionTrigger 500 .loc cam 4294967296 .reset).fifo.length = 1 := by decide +kernel

theorem test_witness_TriggerTimers :
    (on .start 5).ctl.state.runs = false ∧ (on .running 500).camSettings 0 = some cam
      ∧ (trig { Trigger.reset with fifo := [fired 0, fired 0, fired 1] } (on .running 500)).cams[(0 : Cam)].trig.fifo
          = fired 0 :: [fired 0, fired 1]
      ∧ ((500 : Time) - (fired 1).fired).toNat < cam.timeout ∧ cam.timeout ≤ ((500 : Time) - (fired 0).fired).toNat
      ∧ (on .running 500).ctl.state.runs = true ∧ cam.enabled = true ∧ cam.free = false
      ∧ [fired 0, fired 1].head? = some (fired 0) ∧ [fired 1].head? = some (fired 1) := by decide +kernel

/-- A LOCKED port at 256 with a line begun. -/
def lockedPort : CameraPort :=
  { CameraPort.reset .locked true with locked := some 256, line := some .begin, darkWatch := some 1 }

theorem test_witness_LineValidAndDarkWatch :
    (port lockedPort (on .running 5)).cams[(0 : Cam)].port.lineValid = true ∧ (on .running 5).cams[(0 : Cam)].port.lineValid = false
      ∧ (CameraPort.reset .dark false).state = .dark ∧ lockedPort.state ≠ .dark ∧ lockedPort.state ≠ .off
      ∧ 100000 ≤ ((100001 : Time) - 1).toNat := by decide +kernel

theorem test_witness_LinesComplete :
    (on .running 5).cams[(0 : Cam)].port.lineValid = false ∧ lockedPort.lineValid = true ∧ (on .start 5).ctl.state.runs = false
      ∧ lockedPort.state ≠ .off ∧ lockedPort.state ≠ .dark ∧ ({ lockedPort with line := none } : CameraPort).line = none
      ∧ (port lockedPort (on .running 5)).camSettings 0 = some cam
      ∧ (port lockedPort (on .running 5)).cams[(0 : Cam)].port.line = some .begin
      ∧ cam.free = false ∧ (port lockedPort (on .running 5)).cams[(0 : Cam)].trig.fifo = []
      ∧ (trig { Trigger.reset with fifo := [fired 0] } (on .running 5)).cams[(0 : Cam)].trig.fifo = fired 0 :: []
      ∧ (withCam { cam with free := true } (on .running 5)).camSettings 0 = some { cam with free := true }
      ∧ cam.fill = .black ∧ ({ cam with fill := .flat } : CameraSettings).fill = .flat
      ∧ ({ cam with fill := .ramp } : CameraSettings).fill = .ramp ∧ lockedPort.state = .locked
      ∧ (CameraPort.reset .sizing true).state ≠ .locked := by decide +kernel

/-- The completed line of that port with an empty FIFO counts as unsolicited, and the port stays LOCKED. -/
theorem test_unsolicited_line :
    (match exec (.lineCompletion 0 (List.replicate 256 700)) (port lockedPort (on .running 5)) with
      | .next t => decide (t.cams[(0 : Cam)].trig.unsolicited = 1 ∧ t.cams[(0 : Cam)].port.lastLength = 256
          ∧ t.cams[(0 : Cam)].port.state = .locked ∧ t.cams[(0 : Cam)].port.produced = 0)
      | _ => false) = true := by decide +kernel

theorem test_witness_PortsLockAndLose :
    (CameraPort.reset .off false).state = .off ∧ (CameraPort.reset .sizing false).state = .sizing
      ∧ (∀ r, ({ CameraPort.reset .sizing false with run := some ⟨256, 3⟩ } : CameraPort).run = some r → r.length = 256 → 4 = r.count + 1)
      ∧ (∀ r, (CameraPort.reset .sizing false).run = some r → r.length ≠ 256)
      ∧ cam.lengthCheck = false ∧ cam.windowStart < 256 ∧ 16384 < 16385
      ∧ ({ cam with lengthCheck := true } : CameraSettings).lengthCheck = true ∧ 256 = cam.nominal ∧ 255 ≠ cam.nominal
      ∧ (CameraPort.reset .mismatch false).state = .mismatch ∧ lockedPort.state = .locked ∧ lockedPort.locked = some 256
      ∧ lockedPort.locked ≠ some 255 ∧ ({ lockedPort with deviation := 6 } : CameraPort).deviation < 7
      ∧ 7 ≤ ({ lockedPort with deviation := 7 } : CameraPort).deviation := by
  refine ⟨rfl, rfl, ?_, ?_, rfl, by decide, by decide, rfl, rfl, by decide, rfl, rfl, rfl, by decide, by decide, by decide⟩
  · intro r h _; cases h; rfl
  · intro r h; cases h

theorem test_witness_PixelsAreConditioned : (16384 : Nat) ≤ 16384 ∧ cam.low ≤ cam.high := by decide

/-- A line queue of `n` bytes. -/
def backlog (n : Nat) (s : State) : State :=
  { s with seg := { s.seg with lines := [
      { header := own, camera := 1, serial := 9, segIndex := 0, segCount := 1, coil := 7, nominal := 50, flags := 0, depth := 8,
        segPixels := 1, clips := 0, thinnedSince := 0, payload := List.replicate (n - 32) 1 }] } }

theorem test_witness_LinesAreAdmitted :
    ¬ ((on .joining 5).ctl.state = .running ∨ (on .joining 5).ctl.state = .ringOpen) ∧ (on .ringOpen 5).ctl.state = .ringOpen
      ∧ thinOf (on .running 5) 0 = 3 ∧ 196608 ≤ lineOccupancy (backlog 196608 (on .running 5)).seg.lines
      ∧ ({ Admission.reset with phase := 2 } : Admission).phase ≠ 0
      ∧ 262144 < lineOccupancy (backlog 262112 (on .running 5)).seg.lines + (1 + 32 * ((1 + 2047) / 2048))
      ∧ lineOccupancy (backlog 262111 (on .running 5)).seg.lines + (1 + 32 * ((1 + 2047) / 2048)) ≤ 262144 := by
  have h (n : Nat) : lineOccupancy (backlog n (on .running 5)).seg.lines = n - 32 + 32 := by
    simp [lineOccupancy, LineParcel.size, backlog]
  rw [h, h, h]
  decide +kernel

/-! ### Witnesses: the ease unit and what every step keeps -/

theorem test_witness_EaseWindowCloses :
    ((999 : Time) - (on .running 999).ease.windowTimer).toNat < 1000 ∧ 1000 ≤ ((1000 : Time) - (on .running 1000).ease.windowTimer).toNat
      ∧ ((smoothRate 0 16000).toNat : Int) = max 0 (min 65535 ((0 : Int) + (((16000 / 16 : Nat) : Int) - 0) / 8))
      ∧ (on .running 1000).ease.originating = false
      ∧ 131072 ≤ lineOccupancy (backlog 131072 (on .running 1000)).seg.lines
      ∧ (0 < 4 ∧ 4 ≤ 2 * 2) ∧ lineOccupancy (on .running 1000).seg.lines < 65536 := by
  have h (n : Nat) : lineOccupancy (backlog n (on .running 1000)).seg.lines = n - 32 + 32 := by
    simp [lineOccupancy, LineParcel.size, backlog]
  rw [h]
  decide +kernel

/-- From State.reset, which has every invariant, the station takes a step. -/
theorem test_witness_StepsKeep : ∃ t, step State.reset = .next t := ⟨_, rfl⟩

/-- The blocks of State.reset are each in one place, and every context is free. -/
theorem test_witness_invariants :
    (blocksOf State.reset.take).Perm (List.finRange 512) ∧ State.reset.take.store.wf = true
      ∧ State.reset.seam.list.Pairwise (fun a b => a.coord.toNat + Config.mergeDistance < b.coord.toNat) := by decide +kernel

end Sys2Proof.Tests
end

section
/-! The buffers and queues of a state, their marks (R12, R14, R27, R43, R95, R119, R124, R157), and what the outbound port and the
requests of the control queue do to them. -/
namespace Sys2Proof.FibreRing
open Sys2Proof.Machine Sys2Proof.Safety

/-! ### The buffers and queues of a state -/

/-- The part of the state that the marks of the buffers and queues are about. -/
structure Buffers where
  transit : List TransitEntry
  aligning : Bool
  outbound : Option OutParcel
  reception : Option Reception
  lines : List LineParcel
  control : List ControlParcel
  returns : List ReturnRecord
  illegal : List Time
  fifo : Cam → List TriggerRecord
  deliveries : List DeliveryRecord

/-- The buffers and queues of a state. -/
def buffers (s : State) : Buffers :=
  { transit := s.ring.transit, aligning := s.ring.aligning, outbound := s.ring.outbound, reception := s.ring.reception,
    lines := s.seg.lines, control := s.seg.control, returns := s.ctl.pendingReturn, illegal := s.strip.illegal,
    fifo := fun i => s.cams[i].trig.fifo, deliveries := s.take.queue }

/-- The control parcels of one kind in a queue. -/
def kindCount (k : Kind) (q : List ControlParcel) : Nat := (q.filter (fun p => p.body.kind == k)).length

/-- The places of the control queue for each kind (R124). -/
def places : Kind → Nat
  | .mark => Config.markPlaces
  | .signon | .status | .beacon | .ease => 1
  | .line => 0

/-- Every buffer and queue is within its mark. -/
structure Bounded (b : Buffers) : Prop where
  transit : transitOccupancy b.transit ≤ Config.transitCapacity
  quiet : b.aligning = true → b.outbound = none
  reception : b.reception = none ∨ b.reception = some .opened
  lines : lineOccupancy b.lines ≤ Config.lineCapacity
  control : ∀ k, kindCount k b.control ≤ places k
  returns : b.returns.length ≤ Config.pendingReturns
  illegal : b.illegal.length ≤ Config.illegalSteps
  fifo : ∀ i, (b.fifo i).length ≤ Config.fifoRecords
  deliveries : b.deliveries.length ≤ Config.deliveryRecords

/-- Within the marks, and no transit parcel waits at an idle port (R14, R15). -/
structure Within (b : Buffers) : Prop extends Bounded b where
  drained : b.aligning = false → b.outbound = none → b.transit = []

/-! ### The places of the control queue -/

theorem kindCount_sublist {q r : List ControlParcel} (h : q.Sublist r) (k : Kind) : kindCount k q ≤ kindCount k r :=
  (h.filter _).length_le

theorem kindCount_append (k : Kind) (q : List ControlParcel) (p : ControlParcel) :
    kindCount k (q ++ [p]) = kindCount k q + if p.body.kind = k then 1 else 0 := by
  by_cases h : p.body.kind = k <;> simp [kindCount, h]

/-- A replacement in position keeps the kinds queued (R125). -/
theorem kindCount_replaceKind (k : Kind) (p : ControlParcel) (q : List ControlParcel) :
    kindCount k (replaceKind p q) = kindCount k q := by
  induction q with
  | nil => rfl
  | cons x q ih =>
    unfold kindCount at ih ⊢
    rw [replaceKind]
    split
    next h =>
      have e : x.body.kind = p.body.kind := by simpa [sameKind] using h
      simp only [List.filter_cons, e]
      split <;> rfl
    next =>
      simp only [List.filter_cons]
      split
      · simp only [List.length_cons, ih]
      · exact ih

/-- With no parcel of its kind queued, a request finds its place free. -/
theorem kindCount_eq_zero {b : ControlBody} {q : List ControlParcel} (h : q.any (sameKind b) = false) :
    kindCount b.kind q = 0 := by
  rw [kindCount, List.length_eq_zero_iff, List.filter_eq_nil_iff]
  intro p hp
  exact List.any_eq_false.mp h p hp

/-- Every control parcel has one of the five kinds of the control queue. -/
theorem length_eq_kindCounts (q : List ControlParcel) :
    q.length = kindCount .signon q + kindCount .status q + kindCount .beacon q + kindCount .ease q + kindCount .mark q := by
  induction q with
  | nil => rfl
  | cons p q ih =>
    have hc : ∀ k, kindCount k (p :: q) = (if p.body.kind = k then 1 else 0) + kindCount k q := by
      intro k
      by_cases h : p.body.kind = k
      · simp [kindCount, h]; omega
      · simp [kindCount, h]
    simp only [List.length_cons, hc, ih]
    cases p.body <;> simp only [ControlBody.kind, reduceCtorEq, if_true, if_false] <;> omega

theorem kindCount_line (q : List ControlParcel) : kindCount .line q = 0 := by
  rw [kindCount, List.length_eq_zero_iff, List.filter_eq_nil_iff]
  intro p _
  cases p.body <;> simp [ControlBody.kind]

/-- The control queue's marks, kind by kind (R124). -/
theorem controlWithin_iff (s : State) : ControlWithin s ↔ ∀ k, kindCount k s.seg.control ≤ places k := by
  constructor
  · rintro ⟨hsignon, hstatus, hbeacon, hease, hmark, -⟩ k
    cases k with
    | line => exact (kindCount_line _).le
    | signon => exact hsignon
    | status => exact hstatus
    | beacon => exact hbeacon
    | ease => exact hease
    | mark => exact hmark
  · intro h
    refine ⟨h .signon, h .status, h .beacon, h .ease, h .mark, ?_⟩
    have hsignon := h .signon
    have hstatus := h .status
    have hbeacon := h .beacon
    have hease := h .ease
    have hmark := h .mark
    rw [length_eq_kindCounts]
    simp only [places, Config.markPlaces] at *
    omega

/-- What `StepsKeepTheBuffers` keeps is `Within` of the buffers. -/
theorem within_iff (s : State) :
    (TransitWithin s ∧ IdlePortDrained s ∧ ReceptionFresh s ∧ LinesWithin s ∧ ControlWithin s ∧ ListsWithin s)
      ↔ Within (buffers s) := by
  rw [controlWithin_iff]
  constructor
  · rintro ⟨transit, ⟨quiet, drained⟩, reception, lines, control, returns, illegal, fifo, deliveries⟩
    exact ⟨⟨transit, quiet, reception, lines, control, returns, illegal, fifo, deliveries⟩, drained⟩
  · rintro ⟨⟨transit, quiet, reception, lines, control, returns, illegal, fifo, deliveries⟩, drained⟩
    exact ⟨transit, ⟨quiet, drained⟩, reception, lines, control, returns, illegal, fifo, deliveries⟩

/-! ### The outbound port -/

theorem transitOccupancy_suffix {q r : List TransitEntry} (h : q <:+ r) : transitOccupancy q ≤ transitOccupancy r := by
  obtain ⟨l, rfl⟩ := h
  simp [transitOccupancy]

theorem lineOccupancy_suffix {q r : List LineParcel} (h : q <:+ r) : lineOccupancy q ≤ lineOccupancy r := by
  obtain ⟨l, rfl⟩ := h
  simp [lineOccupancy]

/-- Every launch occupies the port. -/
theorem launchControl_outbound (p : ControlParcel) (s : State) : (launchControl p s).ring.outbound ≠ none := by
  unfold launchControl
  split <;> simp [startSending, launchStatus]

/-- The port stays idle only where the scheduler finds no transit parcel (R15). -/
theorem choose_idle {s : State} (h : choose s = .idle) : s.ring.transit = [] := by
  unfold choose at h
  split at h
  · cases h
  split at h
  · cases h
  split at h
  · cases h
  split at h
  · cases h
  next ht => simpa using ht

theorem choose_transit {s : State} (h : choose s = .transit) : s.ring.transit ≠ [] := by
  unfold choose at h
  split at h
  next hm => intro e; simp [e, transitOccupancy] at hm
  split at h
  · cases h
  split at h
  · cases h
  split at h
  next ht => simpa using ht
  · cases h

theorem choose_control {s : State} (h : choose s = .control) : s.ctl.state ≠ .start ∧ s.seg.control ≠ [] := by
  unfold choose at h
  split at h
  · cases h
  split at h
  next hc => simpa using hc
  split at h
  · cases h
  split at h <;> cases h

theorem choose_line {s : State} (h : choose s = .line) : s.seg.lines ≠ [] := by
  unfold choose at h
  split at h
  · cases h
  split at h
  · cases h
  split at h
  next hl => simp only [Bool.and_eq_true, Bool.not_eq_true', List.isEmpty_eq_false_iff] at hl; exact hl.1.2
  split at h <;> cases h

/-- After the scheduler's choice the port sends, or no transit parcel waits (R14, R15). -/
theorem outboundFree_drained (s : State) :
    (outboundFree s).ring.outbound = none → (outboundFree s).ring.transit = [] := by
  unfold outboundFree sendChosen
  simp only [countDecision_rest]
  cases hc : choose (clearDown s) with
  | transit =>
    cases ht : (clearDown s).ring.transit with
    | nil => exact absurd ht (choose_transit hc)
    | cons e rest => simp [startSending]
  | control =>
    cases hq : (clearDown s).seg.control with
    | nil => exact absurd hq (choose_control hc).2
    | cons p rest => exact fun h => absurd h (launchControl_outbound _ _)
  | line =>
    cases hq : (clearDown s).seg.lines with
    | nil => exact absurd hq (choose_line hc)
    | cons p rest => simp [startSending]
  | idle =>
    intro _
    simpa using choose_idle hc

theorem outboundFree_within {s : State} (h : Bounded (buffers s)) (ha : s.ring.aligning = false) :
    Within (buffers (outboundFree s)) := by
  obtain ⟨hring, htransit⟩ := outboundFree_ring s
  have hseg := outboundFree_seg s
  have halign : (outboundFree s).ring.aligning = false := by rw [hring]; exact ha
  refine ⟨⟨(transitOccupancy_suffix htransit).trans h.transit, ?_, ?_, (lineOccupancy_suffix hseg.lines).trans h.lines,
    fun k => (kindCount_sublist hseg.control.sublist k).trans (h.control k), (outboundFree_ctl s).pending h.returns, ?_, ?_, ?_⟩,
    fun _ => outboundFree_drained s⟩
  · exact fun hn => absurd hn (by simp [buffers, halign])
  · show (outboundFree s).ring.reception = _ ∨ (outboundFree s).ring.reception = _
    rw [hring]
    exact h.reception
  · simpa [buffers] using h.illegal
  · simpa [buffers] using h.fifo
  · simpa [buffers] using h.deliveries

/-- An alignment run begins at an idle port. -/
theorem startRun_within {s : State} (h : Bounded (buffers s)) (ho : s.ring.outbound = none) :
    Within (buffers (startRun s)) :=
  { h with quiet := fun _ => ho, drained := nofun }

theorem freeAfterSending_within {s : State} (h : Bounded (buffers s)) (ha : s.ring.aligning = false)
    (ho : s.ring.outbound = none) : Within (buffers (freeAfterSending s)) := by
  unfold freeAfterSending
  split
  · exact startRun_within h ho
  · exact outboundFree_within h ha

/-- A busy port holds back the choice, and its drained transit buffer with it. -/
theorem Bounded.within_of_busy {s : State} (h : Bounded (buffers s)) (hb : PortBusy s) : Within (buffers s) := by
  refine ⟨h, fun ha ho => ?_⟩
  rcases hb with hb | hb
  · simp [show s.ring.outbound = none from ho] at hb
  · exact absurd (hb.symm.trans ha) nofun

theorem freeWhileIdle_within {s : State} (h : Bounded (buffers s)) : Within (buffers (freeWhileIdle s)) := by
  unfold freeWhileIdle
  split
  next hb => exact h.within_of_busy (by simpa [PortBusy] using hb)
  next hb =>
    obtain ⟨ho, ha⟩ : s.ring.outbound = none ∧ s.ring.aligning = false := by simpa using hb
    have hfree : ∀ (b : Bool) (e : Option Time) (t : State), t = (if b then s else s.bump) →
        Bounded (buffers { t with ring := { t.ring with lastRunEnd := e } }) ∧ t.ring = s.ring := by
      rintro b e t rfl
      cases b <;> exact ⟨h, rfl⟩
    simp only
    obtain ⟨hbounded, hring⟩ := hfree (decide (2 ≤ s.ring.idleUnits))
      (bif decide (2 ≤ s.ring.idleUnits) || Config.idleRunReached s.freeCount then some s.time else s.ring.lastRunEnd) _ rfl
    split
    · exact startRun_within hbounded (by simp only [hring]; exact ho)
    · exact outboundFree_within hbounded (by simp only [hring]; exact ha)

/-! ### Requests -/

theorem joinControl_within {p : ControlParcel} {s : State} (h : Within (buffers s))
    (hp : kindCount p.body.kind s.seg.control < places p.body.kind) : Within (buffers (joinControl p s)) := by
  refine freeWhileIdle_within { h.toBounded with control := fun k => ?_ }
  show kindCount k (s.seg.control ++ [p]) ≤ places k
  rw [kindCount_append]
  split
  next e => subst e; omega
  next => exact h.control k

theorem placeRequest_within {b : ControlBody} {s : State} (h : Within (buffers s)) (hb : 0 < places b.kind) :
    Within (buffers (placeRequest b s)) := by
  unfold placeRequest
  simp only
  split
  next => exact { h with control := fun k => (kindCount_replaceKind k _ _).le.trans (h.control k) }
  next hn => exact joinControl_within h (by rw [kindCount_eq_zero (by simpa using hn)]; exact hb)

theorem placeMark_within {x : Coord} {coil : Word16} {s : State} (h : Within (buffers s)) :
    Within (buffers (placeMark x coil s)) := by
  unfold placeMark
  split
  next hm => exact joinControl_within h hm
  next => exact h

theorem requestSignon_within {s : State} (h : Within (buffers s)) : Within (buffers (requestSignon s)) :=
  placeRequest_within h Nat.one_pos

theorem requestStatus_within {s : State} (h : Within (buffers s)) : Within (buffers (requestStatus s)) :=
  placeRequest_within h Nat.one_pos

theorem requestBeacon_within {s : State} (h : Within (buffers s)) : Within (buffers (requestBeacon s)) :=
  placeRequest_within (s := { s with strip := { s.strip with beaconSequence := s.strip.beaconSequence + 1 } }) h Nat.one_pos

theorem requestEase_within {x : Word16} {s : State} (h : Within (buffers s)) : Within (buffers (requestEase x s)) :=
  placeRequest_within h Nat.one_pos

theorem reportLimiter_within {b : Bool} {s : State} (h : Within (buffers s)) : Within (buffers (reportLimiter b s)) := by
  unfold reportLimiter
  split
  · exact freeWhileIdle_within h.toBounded
  · exact h

theorem recheckBeacon_within {s : State} (h : Within (buffers s)) : Within (buffers (recheckBeacon s)) := by
  unfold recheckBeacon
  split
  · exact requestBeacon_within (s := { s with strip := { s.strip with beaconTimer := some s.time } }) h
  · exact h
  · exact h
  · exact h

end Sys2Proof.FibreRing
end

section
/-! What station control, the ease unit, the seam unit, the strip position unit and the take-off unit do to the buffers and
queues. -/
namespace Sys2Proof.FibreRing
open Sys2Proof.Machine Sys2Proof.Safety

/-! ### Station control -/

@[simp] theorem buffers_enterOpen (s : State) : buffers (enterOpen s) = buffers s := by
  unfold enterOpen
  split <;> rfl

@[simp] theorem buffers_enterRunning (s : State) : buffers (enterRunning s) = buffers s := by
  unfold enterRunning
  split <;> rfl

@[simp] theorem buffers_linkDark (s : State) : buffers (linkDark s) = buffers s := by
  unfold linkDark
  split
  case h_1 | h_2 => exact buffers_enterOpen s
  all_goals rfl

theorem enterDuplicate_within {s : State} (h : Within (buffers s)) : Within (buffers (enterDuplicate s)) := by
  unfold enterDuplicate
  exact recheckBeacon_within h

theorem linkUp_within {s : State} (h : Within (buffers s)) : Within (buffers (linkUp s)) := by
  unfold linkUp
  split
  case h_1 | h_2 => exact requestSignon_within (s := { s with ctl := { s.ctl with signonTimer := some s.time } }) h
  all_goals exact h

theorem length_dropReturned_le (q : Word16) (l : List ReturnRecord) : (dropReturned q l).length ≤ l.length := by
  unfold dropReturned
  split
  · exact ((List.drop_sublist _ _).trans (List.dropWhile_sublist _)).length_le
  · exact le_rfl

theorem ownStatusReturn_within {p : List Byte} {s : State} (h : Within (buffers s)) :
    Within (buffers (ownStatusReturn p s)) := by
  unfold ownStatusReturn
  split
  · exact h
  · rw [buffers_enterRunning]
    exact { h with returns := (length_dropReturned_le _ _).trans h.returns }

theorem ownSignonReturn_within {s : State} (h : Within (buffers s)) : Within (buffers (ownSignonReturn s)) := by
  unfold ownSignonReturn
  split
  · exact h
  · rwa [buffers_enterRunning]

theorem duplicateSeen_within {s : State} (h : Within (buffers s)) : Within (buffers (duplicateSeen s)) := by
  unfold duplicateSeen
  simp only
  split
  · exact h
  · exact enterDuplicate_within h

theorem peerSignon_within {p : List Byte} {s : State} (h : Within (buffers s)) : Within (buffers (peerSignon p s)) := by
  unfold peerSignon
  simp only
  split
  · exact h
  split
  · split
    · exact h
    · exact duplicateSeen_within h
  · exact h

theorem peerStatus_within {p : List Byte} {s : State} (h : Within (buffers s)) : Within (buffers (peerStatus p s)) := by
  unfold peerStatus
  simp only
  split
  · exact h
  split
  · split
    · exact h
    · exact duplicateSeen_within h
  · exact h

/-! ### The ease unit -/

@[simp] theorem buffers_onEase (f : EaseUnit → EaseUnit) (s : State) : buffers (onEase f s) = buffers s := rfl

@[simp] theorem buffers_originate (s : State) : buffers (originate s) = buffers s := by
  unfold originate
  simp only
  split
  · rfl
  · split <;> rfl

theorem renew_within {s : State} (h : Within (buffers s)) : Within (buffers (renew s)) := by
  unfold renew
  split
  · split
    · exact h
    · exact requestEase_within (s := onEase (fun e => { e with phase := true }) s) h
  · exact h

theorem windowExpiry_within {s : State} (h : Within (buffers s)) : Within (buffers (windowExpiry s)) := by
  unfold windowExpiry
  refine reportLimiter_within (s := clearWindow _) (renew_within ?_)
  rwa [buffers_originate, buffers_onEase]

theorem easeOffer_within {p : List Byte} {s : State} (h : Within (buffers s)) : Within (buffers (easeOffer p s)) := by
  unfold easeOffer
  simp only
  split
  · exact reportLimiter_within (s := onEase _ s) h
  · exact h

/-! ### The seam unit -/

@[simp] theorem buffers_onSeam (f : SeamUnit → SeamUnit) (s : State) : buffers (onSeam f s) = buffers s := rfl

@[simp] theorem buffers_offerSeam (r : SeamRecord) (s : State) : buffers (offerSeam r s) = buffers s := by
  simp [buffers]

@[simp] theorem buffers_markOffer (p : List Byte) (s : State) : buffers (markOffer p s) = buffers s := by
  simp [buffers]

@[simp] theorem buffers_latestSeamOffer (p : List Byte) (s : State) : buffers (latestSeamOffer p s) = buffers s := by
  simp [buffers]

@[simp] theorem buffers_offerKeptSeam (s : State) : buffers (offerKeptSeam s) = buffers s := by
  simp [buffers]

theorem placeCapture_within {t : Settings} {c : Capture} {s : State} (h : Within (buffers s)) :
    Within (buffers (placeCapture t c s)) := by
  unfold placeCapture
  simp only [buffers_offerSeam]
  split
  · exact placeMark_within (s := onSeam _ s) h
  · exact h

theorem processCapture_within {c : Capture} {s : State} (h : Within (buffers s)) :
    Within (buffers (processCapture c s)) := by
  unfold processCapture
  split
  · exact h
  · split
    · exact placeCapture_within h
    · exact h

theorem processAll_within (l : List Capture) {s : State} (h : Within (buffers s)) :
    Within (buffers (l.foldl (fun t c => processCapture c t) s)) := by
  induction l generalizing s with
  | nil => exact h
  | cons c l ih => exact ih (processCapture_within h)

theorem seamUpdate_within {s : State} (h : Within (buffers s)) : Within (buffers (seamUpdate s)) := by
  unfold seamUpdate
  split
  · have hall := processAll_within (captures s.seam) (s := onSeam (fun u => { u with capture0 := none, capture1 := none }) s) h
    simp only
    split
    · rwa [buffers_onSeam]
    · exact hall
  · exact h

/-! ### The cameras as the strip position unit and the segmenter change them -/

theorem onTrig_fifo (s : State) (i j : Cam) (f : Trigger → Trigger) :
    (s.onTrig i f).cams[j].trig.fifo = if i = j then (f s.cams[i].trig).fifo else s.cams[j].trig.fifo := by
  rw [State.onTrig_self, change_get]
  split <;> rfl

@[simp] theorem buffers_onPort (s : State) (i : Cam) (f : CameraPort → CameraPort) : buffers (s.onPort i f) = buffers s := by
  have hfifo : ∀ j : Cam, (s.onPort i f).cams[j].trig.fifo = s.cams[j].trig.fifo := by
    intro j
    rw [State.onPort_self, change_get]
    split
    next e => rw [e]
    next => rfl
  simp only [buffers, hfifo, State.onPort_rest]

@[simp] theorem buffers_onAdm (s : State) (i : Cam) (f : Admission → Admission) : buffers (s.onAdm i f) = buffers s := by
  have hfifo : ∀ j : Cam, (s.onAdm i f).cams[j].trig.fifo = s.cams[j].trig.fifo := by
    intro j
    rw [State.onAdm_self, change_get]
    split
    next e => rw [e]
    next => rfl
  simp only [buffers, hfifo, State.onAdm_rest]

theorem onTrig_within {s : State} {i : Cam} {f : Trigger → Trigger} (h : Within (buffers s))
    (hf : (f s.cams[i].trig).fifo.length ≤ Config.fifoRecords) : Within (buffers (s.onTrig i f)) := by
  refine { h with fifo := fun j => ?_ }
  show (s.onTrig i f).cams[j].trig.fifo.length ≤ _
  rw [onTrig_fifo]
  split
  · exact hf
  · exact h.fifo j

theorem buffers_raiseSourceChange (s : State) : buffers (raiseSourceChange s) = buffers s := by
  simp only [buffers, raiseSourceChange, each_get]

theorem buffers_setSource (p : PositionSource) (s : State) : buffers (setSource p s) = buffers s := by
  unfold setSource
  simp only
  split
  · rfl
  · exact buffers_raiseSourceChange _

@[simp] theorem buffers_follow (n : Station) (s : State) : buffers (follow n s) = buffers s := buffers_setSource _ _

theorem markFallback_mark_fifo (s : State) (i : Cam) : (markFallback.mark s i).trig.fifo = s.cams[i].trig.fifo := by
  unfold markFallback.mark
  simp only
  split <;> rfl

/-- Reading one of the four cameras of a table written out. -/
theorem cams_get {α : Type} (f : Cam → α) (i : Cam) : (#v[f 0, f 1, f 2, f 3])[i] = f i := by
  match i with
  | 0 | 1 | 2 | 3 => rfl

@[simp] theorem buffers_markFallback (s : State) : buffers (markFallback s) = buffers s := by
  unfold markFallback
  split
  · simp only [buffers, cams_get (markFallback.mark s), markFallback_mark_fifo]
  · rfl

@[simp] theorem buffers_enterHeld (s : State) : buffers (enterHeld s) = buffers s := buffers_markFallback _

theorem buffers_onStrip {f : StripUnit → StripUnit} {s : State} (hf : (f s.strip).illegal = s.strip.illegal) :
    buffers (onStrip f s) = buffers s := by
  simp [buffers, hf]

theorem encoderFault_within {s : State} (h : Within (buffers s)) : Within (buffers (encoderFault s)) := by
  unfold encoderFault
  simp only
  split
  · apply recheckBeacon_within
    split
    · rwa [buffers_follow, buffers_onStrip rfl]
    · rwa [buffers_enterHeld, buffers_onStrip rfl]
  · exact h

theorem length_listStep_le (now : Time) (l : List Time) : (listStep now l).length ≤ Config.illegalSteps := by
  simp only [listStep, List.length_drop]
  omega

theorem samplePair_within {a b : Bool} {s : State} (h : Within (buffers s)) : Within (buffers (samplePair a b s)) := by
  have hlist : ∀ u : StripUnit, u.illegal = listStep s.time s.strip.illegal → Within (buffers { s with strip := u }) :=
    fun u hu => { h with illegal := (congrArg List.length hu).trans_le (length_listStep_le _ _) }
  unfold samplePair
  simp only
  split
  · split
    · exact h
    · split
      · exact encoderFault_within (hlist _ rfl)
      · exact hlist _ rfl
    · split
      · exact encoderFault_within (hlist _ rfl)
      · exact hlist _ rfl
  · exact h

@[simp] theorem buffers_stripUpdate (s : State) : buffers (stripUpdate s) = buffers s := by
  have hill : (stripUpdate s).strip.illegal = s.strip.illegal := by
    unfold stripUpdate
    simp only
    split <;> rfl
  simp [buffers, hill]

@[simp] theorem buffers_afterEntryWrite (n : Station) (s : State) : buffers (afterEntryWrite n s) = buffers s := by
  unfold afterEntryWrite
  split
  · rfl
  · exact buffers_follow n s
  · exact buffers_follow n s
  · exact buffers_follow n s
  · split <;> rfl

@[simp] theorem buffers_beaconOffer (p : List Byte) (s : State) : buffers (beaconOffer p s) = buffers s := by
  unfold beaconOffer
  simp only
  split
  · rw [buffers_afterEntryWrite, buffers_onStrip rfl]
  · rfl

theorem returnToGood_within {t : Settings} {s : State} (h : Within (buffers s)) : Within (buffers (returnToGood t s)) := by
  unfold returnToGood
  apply recheckBeacon_within
  rw [buffers_setSource]
  exact { h with illegal := Nat.zero_le _ }

@[simp] theorem buffers_followedStale (n : Station) (s : State) : buffers (followedStale n s) = buffers s := by
  unfold followedStale
  split
  · exact buffers_follow _ s
  · rfl

theorem endAlignment_within {t : Settings} {s : State} (h : Within (buffers s)) : Within (buffers (endAlignment t s)) :=
  recheckBeacon_within h

/-! ### The take-off unit and the delivery port -/

theorem length_appendRecord_queue {r : DeliveryRecord} {u : TakeOffUnit} (h : u.queue.length ≤ Config.deliveryRecords) :
    (appendRecord r u).queue.length ≤ Config.deliveryRecords := by
  unfold appendRecord
  split
  next hl => rw [List.length_append]; exact hl
  next => exact h

theorem length_breakContext_queue {now : Time} {d : Bool} {k : Fin 32} {a : Assembly} {u : TakeOffUnit}
    (h : u.queue.length ≤ Config.deliveryRecords) : (breakContext now d k a u).queue.length ≤ Config.deliveryRecords := by
  unfold breakContext
  simp only
  split
  · exact length_appendRecord_queue h
  · exact h

theorem length_placeSegment_queue {now : Time} {d : Bool} {g : Segment} {k : Fin 32} {a : Assembly} {u : TakeOffUnit}
    (h : u.queue.length ≤ Config.deliveryRecords) : (placeSegment now d g k a u).queue.length ≤ Config.deliveryRecords := by
  unfold placeSegment
  split
  · exact length_breakContext_queue h
  · simp only
    split
    · exact length_appendRecord_queue h
    · exact h

theorem length_withoutContext_queue {now : Time} {d o : Bool} {i : Fin 8} {g : Segment} {u : TakeOffUnit}
    (h : u.queue.length ≤ Config.deliveryRecords) : (withoutContext now d o i g u).queue.length ≤ Config.deliveryRecords := by
  unfold withoutContext
  split
  · split
    · exact length_placeSegment_queue h
    · exact h
  · exact h

theorem length_testSegment_queue {now : Time} {d o : Bool} {i : Fin 8} {g : Segment} {u : TakeOffUnit}
    (h : u.queue.length ≤ Config.deliveryRecords) : (testSegment now d o i g u).queue.length ≤ Config.deliveryRecords := by
  unfold testSegment takeSegment
  split
  · split
    · split
      · split
        · exact length_placeSegment_queue h
        · exact length_breakContext_queue h
      · exact length_withoutContext_queue (length_breakContext_queue h)
    · exact length_withoutContext_queue h
  · exact h

theorem onTake_within {f : TakeOffUnit → TakeOffUnit} {s : State} (h : Within (buffers s))
    (hf : (f s.take).queue.length ≤ Config.deliveryRecords) : Within (buffers (onTake f s)) :=
  { h with deliveries := hf }

theorem lineOffer_within {p : List Byte} {s : State} (h : Within (buffers s)) : Within (buffers (lineOffer p s)) := by
  unfold lineOffer
  split
  · exact h
  · split
    · simp only
      split
      · exact h
      · split
        · exact onTake_within h (length_testSegment_queue h.deliveries)
        · exact h
    · exact h

theorem release_within {s : State} (h : Within (buffers s)) : Within (buffers (release s)) := by
  refine { h with deliveries := ?_ }
  show (releaseHead s.take).queue.length ≤ _
  have hq := h.deliveries
  unfold releaseHead
  split
  next => exact hq
  next r rest e => exact (Nat.le_succ _).trans (by simpa [buffers, e] using hq)

end Sys2Proof.FibreRing
end

section
/-! What the cameras, the segmenter, an arrival, the resets and the end of START do to the buffers and queues. -/
namespace Sys2Proof.FibreRing
open Sys2Proof.Machine Sys2Proof.Safety

/-! ### The line queue -/

theorem length_payloadOf (deep : Bool) (l : List Nat) :
    (payloadOf deep l).length = if deep then 2 * l.length else l.length := by
  induction l with
  | nil => cases deep <;> rfl
  | cons v l ih =>
    rw [payloadOf, List.length_append, ih]
    cases deep <;> simp [toBytes_length] <;> omega

/-- The payload bytes of the segments of a line, up to the end of segment `k`, are those of the line up to there. -/
theorem lineOccupancy_segments (h : OwnHeader) (i : Cam) (thinned : BitVec 8) (r : LineRecord) (count : Nat) (bytes : List Byte)
    (k : Nat) :
    lineOccupancy ((List.range k).map (fun j =>
        segmentParcel h i thinned r count j ((bytes.drop (j * Config.blockBytes)).take Config.blockBytes)))
      = min bytes.length (k * Config.blockBytes) + 32 * k := by
  induction k with
  | zero => simp [lineOccupancy]
  | succ k ih =>
    unfold lineOccupancy at ih ⊢
    rw [List.range_succ, List.map_append, List.map_append, List.sum_append, ih]
    simp only [List.map_cons, List.map_nil, List.sum_cons, List.sum_nil, LineParcel.size, segmentParcel, List.length_take,
      List.length_drop, Config.blockBytes]
    omega

/-- A line joins the line queue with its payload bytes and 32 bytes for each of its segments (R118). -/
theorem lineOccupancy_cutLine (h : OwnHeader) (i : Cam) (thinned : BitVec 8) (r : LineRecord) :
    lineOccupancy (cutLine h i thinned r) = parcelBytes r := by
  have hlen : (payloadOf r.deep r.pixels).length = payloadBytes r := length_payloadOf _ _
  unfold cutLine
  simp only
  rw [lineOccupancy_segments, hlen]
  unfold parcelBytes segmentCount Config.blockBytes
  omega

theorem lineOccupancy_append (q r : List LineParcel) : lineOccupancy (q ++ r) = lineOccupancy q + lineOccupancy r := by
  simp [lineOccupancy]

theorem admitLine_within {i : Cam} {r : LineRecord} {s : State} (h : Within (buffers s))
    (hr : lineOccupancy s.seg.lines + parcelBytes r ≤ Config.lineCapacity) : Within (buffers (admitLine i r s)) := by
  unfold admitLine
  have hadm := h.toBounded
  rw [← buffers_onAdm s i (fun a => { a with admitted := satInc a.admitted, thinnedSince := 0 })] at hadm
  refine freeWhileIdle_within { hadm with lines := ?_ }
  show lineOccupancy (s.seg.lines ++ _) ≤ _
  rw [lineOccupancy_append, lineOccupancy_cutLine]
  exact hr

theorem present_within {i : Cam} {r : LineRecord} {s : State} (h : Within (buffers s)) :
    Within (buffers (present i r s)) := by
  unfold present
  simp only
  split
  · rwa [buffers_onAdm]
  · split
    · rwa [buffers_onAdm, buffers_onAdm]
    · split
      next hr => exact admitLine_within (by rwa [buffers_onAdm]) hr
      next => rwa [buffers_onAdm, buffers_onAdm]

theorem makeRecord_within {i : Cam} {t : Tags} {d : Bool} {l : List Nat} {n : Nat} {s : State} (h : Within (buffers s)) :
    Within (buffers (makeRecord i t d l n s)) := by
  unfold makeRecord
  exact present_within (by rwa [buffers_onPort])

/-! ### Camera ports -/

theorem recordLine_within {i : Cam} {c : CameraSettings} {t : Tags} {l : LineRx} {s : State} (h : Within (buffers s)) :
    Within (buffers (recordLine i c t l s)) := by
  unfold recordLine
  split
  case h_4 => exact h
  all_goals exact makeRecord_within h

theorem tagLine_within {i : Cam} {c : CameraSettings} {l : LineRx} {s : State} (h : Within (buffers s)) :
    Within (buffers (tagLine i c l s)) := by
  have hq : s.cams[i].trig.fifo.length ≤ Config.fifoRecords := h.fifo i
  unfold tagLine
  split
  · exact recordLine_within (onTrig_within h hq)
  · split
    · exact onTrig_within h hq
    next r rest e => exact recordLine_within (onTrig_within h ((Nat.le_succ _).trans (e ▸ hq : (r :: rest).length ≤ _)))

theorem completeLine_within {i : Cam} {c : CameraSettings} {l : LineRx} {s : State} (h : Within (buffers s)) :
    Within (buffers (completeLine i c l s)) := by
  unfold completeLine
  rw [buffers_onPort]
  exact tagLine_within (by rwa [buffers_onPort])

/-! ### Triggers -/

/-- A record joins a trigger FIFO only while it has a place (R95). -/
theorem length_decideTrigger_fifo {now : Time} {clock : ClockState} {c : CameraSettings} {n : Nat} {t : Trigger}
    (h : t.fifo.length ≤ Config.fifoRecords) : (decideTrigger now clock c n t).fifo.length ≤ Config.fifoRecords := by
  unfold decideTrigger
  simp only
  split
  · exact h
  · split
    · exact h
    next hf => simp only [fire, List.length_append, List.length_singleton]; omega

theorem length_positionTrigger_fifo {now : Time} {clock : ClockState} {c : CameraSettings} {x : Coord} {t : Trigger}
    (h : t.fifo.length ≤ Config.fifoRecords) : (positionTrigger now clock c x t).fifo.length ≤ Config.fifoRecords := by
  unfold positionTrigger
  simp only
  split
  · exact length_decideTrigger_fifo h
  · exact h

theorem length_fallbackTrigger_fifo {now : Time} {clock : ClockState} {c : CameraSettings} {t : Trigger}
    (h : t.fifo.length ≤ Config.fifoRecords) : (fallbackTrigger now clock c t).fifo.length ≤ Config.fifoRecords := by
  unfold fallbackTrigger
  split
  · simp only
    split
    · exact h
    next hf => simp only [fire, List.length_append, List.length_singleton]; omega
  · exact h

theorem passSeams_within {i : Cam} {x : Coord} {s : State} (h : Within (buffers s)) : Within (buffers (passSeams i x s)) := by
  unfold passSeams
  split
  · unfold passSeam
    rw [buffers_onSeam]
    exact onTrig_within h (h.fifo i)
  · exact h

theorem cameraUpdate_within {i : Cam} {s : State} (h : Within (buffers s)) : Within (buffers (cameraUpdate i s)) := by
  unfold cameraUpdate
  split
  next => exact h
  next c _ =>
    split
    · split
      case h_1 | h_2 | h_3 =>
        have hp := passSeams_within (i := i) (x := coordOf (s.strip.xhat.toNat - c.offset)) h
        exact onTrig_within hp (length_positionTrigger_fifo (hp.fifo i))
      all_goals exact onTrig_within h (length_fallbackTrigger_fifo (h.fifo i))
    · exact h

theorem camerasFold_within (o : UpdateOrder) (k : Fin 3) (l : List Cam) {s : State} (h : Within (buffers s)) :
    Within (buffers (l.foldl (fun t i => if o.slot i = k then cameraUpdate i t else t) s)) := by
  induction l generalizing s with
  | nil => exact h
  | cons i l ih =>
    refine ih ?_
    simp only
    split
    · exact cameraUpdate_within h
    · exact h

theorem updateInOrder_within {o : UpdateOrder} {s : State} (h : Within (buffers s)) :
    Within (buffers (updateInOrder o s)) := by
  have hcams : ∀ {k : Fin 3} {t : State}, Within (buffers t) → Within (buffers (camerasUpdate o k t)) :=
    fun ht => camerasFold_within o _ _ ht
  have hstrip : ∀ {t : State}, Within (buffers t) → Within (buffers (stripUpdate t)) :=
    fun ht => by rwa [buffers_stripUpdate]
  unfold updateInOrder
  simp only
  split
  · exact hcams (hstrip (hcams (seamUpdate_within (hcams h))))
  · exact hcams (seamUpdate_within (hcams (hstrip (hcams h))))

theorem dropHead_within {i : Cam} {c : CameraSettings} {r : TriggerRecord} {s : State} (h : Within (buffers s)) :
    Within (buffers (dropHead i c r s)) := by
  have hdrop : Within (buffers (s.onTrig i (fun t => { t with fifo := t.fifo.drop 1, missing := satInc t.missing }))) :=
    onTrig_within h ((List.drop_sublist _ _).length_le.trans (h.fifo i))
  unfold dropHead
  simp only
  split
  · exact makeRecord_within hdrop
  · exact hdrop

theorem dropExpired_within {i : Cam} {c : CameraSettings} (l : List TriggerRecord) {s : State} (h : Within (buffers s)) :
    Within (buffers (dropExpired i c l s)) := by
  induction l generalizing s with
  | nil => exact h
  | cons r l ih =>
    rw [dropExpired]
    split
    · exact ih (dropHead_within h)
    · exact h

/-! ### Arrivals -/

theorem enterUp_within {s : State} (h : Within (buffers s)) : Within (buffers (enterUp s)) :=
  linkUp_within (s := onRing (fun r => { r with link := .up, idleRun := Config.idlesToUp }) s) h

theorem idleCharacter_within {s : State} (h : Within (buffers s)) : Within (buffers (idleCharacter s)) := by
  unfold idleCharacter
  split
  · exact h
  · exact enterUp_within h

theorem enterDark_within {o : OpenParcel} {s : State} (h : Within (buffers s)) : Within (buffers (enterDark o s)) := by
  unfold enterDark
  split
  · exact h
  · simp only [buffers_linkDark]
    exact { h with reception := Or.inl rfl }

theorem ownReturn_within {k : Kind} {p : List Byte} {s : State} (h : Within (buffers s)) :
    Within (buffers (ownReturn k p s)) := by
  cases k with
  | line => exact lineOffer_within h
  | status => exact ownStatusReturn_within h
  | signon => exact ownSignonReturn_within h
  | beacon | mark | ease => exact h

theorem offerPeer_within {k : Kind} {p : List Byte} {s : State} (h : Within (buffers s)) :
    Within (buffers (offerPeer k p s)) := by
  cases k with
  | line => exact lineOffer_within h
  | beacon => simp only [offerPeer, buffers_latestSeamOffer, buffers_beaconOffer]; exact h
  | mark => simp only [offerPeer, buffers_markOffer]; exact h
  | ease => exact easeOffer_within h
  | status => exact peerStatus_within h
  | signon => exact peerSignon_within h

/-- A parcel joins the transit buffer only where it fits (R11, R12). -/
theorem forward_within {c : List Byte} {s : State} (h : Within (buffers s)) : Within (buffers (forward c s)) := by
  unfold forward
  simp only
  split
  next hfit =>
    refine freeWhileIdle_within { h.toBounded with transit := ?_ }
    show transitOccupancy (s.ring.transit ++ [_]) ≤ _
    simpa [transitOccupancy] using hfit
  next => exact h

theorem processArrival_within {r : Reception} {s : State} (h : Within (buffers s)) :
    Within (buffers (processArrival r s)) := by
  unfold processArrival processKnown
  split
  · split
    · split
      · split
        · exact ownReturn_within h
        · split
          · exact h
          · exact forward_within (offerPeer_within h)
      · exact h
    · exact h
  · exact h

/-! ### The resets and the end of START -/

theorem joinBlocks_within {t : Settings} {s : State} (h : Within (buffers s)) : Within (buffers (joinBlocks t s)) := by
  have hill : (stripJoining s.time t s.strip).illegal.length ≤ Config.illegalSteps := by
    unfold stripJoining
    split
    · simp only
      split <;> exact h.illegal
    · simp only
      split <;> exact Nat.zero_le _
  have hblocks : Within (buffers { s with
      strip := stripJoining s.time t s.strip, cams := #v[camJoining s 0, camJoining s 1, camJoining s 2, camJoining s 3],
      dlv := { s.dlv with active := t.takeOff } }) :=
    { h with
      illegal := hill
      fifo := fun i => by simp only [buffers, cams_get (camJoining s)]; exact h.fifo i }
  unfold joinBlocks
  simp only [buffers_offerKeptSeam]
  split
  · rwa [buffers_markFallback]
  · exact hblocks

/-- A SIGNON is requested, and its timer started, under a condition (R24, R29). -/
theorem requestSignonIf_within {b : Prop} [Decidable b] {now : Time} {u : State} (h : Within (buffers u)) :
    Within (buffers (if b then requestSignon { u with ctl := { u.ctl with signonTimer := some now } } else u)) := by
  split
  · exact requestSignon_within (s := { u with ctl := { u.ctl with signonTimer := some now } }) h
  · exact h

theorem enterJoining_within {s : State} (h : Within (buffers s)) : Within (buffers (enterJoining s)) := by
  unfold enterJoining
  split
  · exact h
  next t _ =>
    have hblocks := joinBlocks_within (t := t)
      (s := { s with ctl := { s.ctl with state := .joining, configValid := true, pendingReturn := [],
                                         statusTimer := some s.time } })
      { h with returns := Nat.zero_le _ }
    have hstatus := requestStatus_within (requestSignonIf_within (b := s.ring.link = .up) (now := s.time) hblocks)
    simp only
    split
    · rw [buffers_enterOpen]; exact hstatus
    · exact hstatus

theorem enterPassOnly_within {s : State} (h : Within (buffers s)) : Within (buffers (enterPassOnly s)) := by
  unfold enterPassOnly
  refine requestStatus_within (requestSignonIf_within (b := s.ring.link = .up) (now := s.time) ?_)
  exact { h with fifo := fun i => by simp only [buffers, each_get]; exact h.fifo i }

/-- Every camera after a power-on reset, whose line-valid input stands (log 10). -/
theorem poweredOn_cams (e : Vector Word16 128) (straps : Station) (a b l : Bool) (levels : Cam → Bool) (hold : Bool) (n : Nat)
    (q : List Instr) (i : Cam) :
    (State.poweredOn e straps a b l levels hold n q).cams[i] = Camera.reset .off (levels i) :=
  cams_get (fun j => Camera.reset .off (levels j)) i

theorem poweredOn_within (e : Vector Word16 128) (straps : Station) (a b l : Bool) (levels : Cam → Bool) (hold : Bool) (n : Nat)
    (q : List Instr) : Within (buffers (State.poweredOn e straps a b l levels hold n q)) where
  transit := Nat.zero_le _
  quiet _ := rfl
  reception := Or.inl rfl
  lines := Nat.zero_le _
  control _ := Nat.zero_le _
  returns := Nat.zero_le _
  illegal := Nat.zero_le _
  fifo i := by
    simp only [buffers, poweredOn_cams]
    exact Nat.zero_le _
  deliveries := Nat.zero_le _
  drained := nofun

theorem stationRestart_within {straps : Station} {o : OpenParcel} {s : State} (h : Within (buffers s)) :
    Within (buffers (stationRestart straps o s)) where
  transit := Nat.zero_le _
  quiet _ := rfl
  reception := Or.inl rfl
  lines := Nat.zero_le _
  control _ := Nat.zero_le _
  returns := Nat.zero_le _
  illegal := by
    have hill : (stripRestart s.strip).illegal = s.strip.illegal := by
      unfold stripRestart
      simp only
      split <;> rfl
    simpa [buffers, stationRestart, hill] using h.illegal
  fifo i := by
    simp only [buffers, stationRestart, cams_get (camRestart (enterDark o s))]
    exact Nat.zero_le _
  deliveries := Nat.zero_le _
  drained := nofun

end Sys2Proof.FibreRing
end

section
/-! Every step keeps the buffers and queues within their marks (O54). -/
namespace Sys2Proof.FibreRing
open Sys2Proof.Machine Sys2Proof.Safety

/-! ### Every command and the idle step -/

/-- The outcome is a next state whose buffers are within their marks. -/
def NextWithin (o : Host.Outcome State Fault Refusal) : Prop := ∃ t, o = .next t ∧ Within (buffers t)

theorem nextWithin {t : State} (h : Within (buffers t)) : NextWithin (.next t) := ⟨t, rfl, h⟩

/-- An event that acts under a condition, and else changes nothing. -/
theorem nextWithin_ite {b : Prop} [Decidable b] {s t : State} (h : Within (buffers s)) (ht : b → Within (buffers t)) :
    NextWithin (.next (if b then t else s)) := by
  split
  next hb => exact nextWithin (ht hb)
  next => exact nextWithin h

@[simp] theorem buffers_replyStatus (r : SvcResult) (s : State) : buffers (replyStatus r s) = buffers s := rfl

theorem sendCompletion_within {s : State} (h : Within (buffers s)) : NextWithin (execSendCompletion s) := by
  unfold execSendCompletion
  split
  next => exact nextWithin h
  next p hp =>
    have ha : s.ring.aligning = false := by
      by_contra hne
      have ho : s.ring.outbound = none := h.quiet (Bool.eq_true_of_not_eq_false hne)
      exact nomatch hp.symm.trans ho
    exact nextWithin_ite h fun _ =>
      freeAfterSending_within (s := { s with ring := { s.ring with outbound := none, idleUnits := 0 } })
        { h.toBounded with quiet := fun _ => rfl } ha rfl

theorem alignmentRunEnd_within {s : State} (h : Within (buffers s)) : NextWithin (execAlignmentRunEnd s) :=
  nextWithin_ite h fun _ =>
    outboundFree_within
      (s := { s with ring := { s.ring with aligning := false, lastRunEnd := some s.time, idleUnits := 2 } })
      { h.toBounded with quiet := nofun } rfl

theorem eepromReadComplete_within {s : State} (h : Within (buffers s)) : NextWithin (execEepromReadComplete s) := by
  refine nextWithin_ite h fun _ => ?_
  simp only
  split
  · exact enterJoining_within (s := takeSettings (finishRead s)) h
  · exact enterPassOnly_within (s := finishRead s) h

theorem signonTimerExpiry_within {s : State} (h : Within (buffers s)) : NextWithin (execSignonTimerExpiry s) := by
  unfold execSignonTimerExpiry
  split
  next => exact nextWithin h
  next b _ =>
    exact nextWithin_ite h fun _ => requestSignon_within
      (s := { s with ctl := { s.ctl with signonTimer := some (nextPeriod b Config.signonPeriod) } }) h

theorem statusTimerExpiry_within {s : State} (h : Within (buffers s)) : NextWithin (execStatusTimerExpiry s) := by
  unfold execStatusTimerExpiry
  split
  next => exact nextWithin h
  next b _ =>
    exact nextWithin_ite h fun _ => requestStatus_within
      (s := { s with ctl := { s.ctl with statusTimer := some (nextPeriod b Config.statusPeriod) } }) h

theorem returnWatchExpiry_within {s : State} (h : Within (buffers s)) : NextWithin (execReturnWatchExpiry s) := by
  refine nextWithin_ite h fun _ => ?_
  rw [buffers_enterOpen]
  exact { h with returns := (List.drop_sublist _ _).length_le.trans h.returns }

theorem cleanExpiry_within {s : State} (h : Within (buffers s)) : NextWithin (execCleanExpiry s) := by
  refine nextWithin_ite h fun _ => ?_
  split
  · exact returnToGood_within h
  · exact h

theorem beaconTimerExpiry_within {s : State} (h : Within (buffers s)) : NextWithin (execBeaconTimerExpiry s) := by
  unfold execBeaconTimerExpiry
  split
  next => exact nextWithin h
  next b _ =>
    exact nextWithin_ite h fun _ => requestBeacon_within
      (s := { s with strip := { s.strip with beaconTimer := some (nextPeriod b Config.beaconPeriod) } }) h

theorem indexPulse_within {s : State} (h : Within (buffers s)) : NextWithin (execIndexPulse s) := by
  unfold execIndexPulse
  split <;> exact nextWithin h

theorem staleExpiry_within {n : Station} {s : State} (h : Within (buffers s)) : NextWithin (execStaleExpiry n s) := by
  refine nextWithin_ite h fun _ => ?_
  simp only
  split
  · rwa [buffers_followedStale, buffers_onStrip rfl]
  · exact h

theorem removalExpiry_within {n : Station} {s : State} (h : Within (buffers s)) : NextWithin (execRemovalExpiry n s) := by
  refine nextWithin_ite h fun _ => ?_
  simp only
  split
  · rwa [buffers_enterHeld, buffers_onStrip rfl]
  · exact h

theorem alignmentEnd_within {s : State} (h : Within (buffers s)) : NextWithin (execAlignmentEnd s) := by
  refine nextWithin_ite h fun _ => ?_
  split
  · exact endAlignment_within h
  · exact h

theorem seamEdge_within {s : State} (h : Within (buffers s)) : NextWithin (execSeamEdge s) := by
  unfold execSeamEdge
  split
  · exact nextWithin h
  · split
    · split <;> exact nextWithin h
    · exact nextWithin h

theorem triggerTimeout_within {i : Cam} {s : State} (h : Within (buffers s)) : NextWithin (execTriggerTimeout i s) := by
  refine nextWithin_ite h fun _ => ?_
  split
  · exact dropExpired_within _ h
  · exact h

theorem lineValidRise_within {i : Cam} {s : State} (h : Within (buffers s)) : NextWithin (execLineValidRise i s) := by
  unfold execLineValidRise
  split
  · exact nextWithin h
  · exact nextWithin (by rwa [buffers_onPort])

theorem lineCompletion_within {i : Cam} {l : List (BitVec 12)} {s : State} (h : Within (buffers s)) :
    NextWithin (execLineCompletion i l s) := by
  refine nextWithin_ite h fun _ => ?_
  simp only
  split
  · split
    · exact completeLine_within (by rwa [buffers_onPort, buffers_onPort])
    · rwa [buffers_onPort, buffers_onPort]
  · rwa [buffers_onPort]

theorem easeWindowExpiry_within {s : State} (h : Within (buffers s)) : NextWithin (execEaseWindowExpiry s) := by
  refine nextWithin_ite h fun _ => windowExpiry_within ?_
  rwa [buffers_onEase]

theorem easeEntryExpiry_within {n : Station} {s : State} (h : Within (buffers s)) : NextWithin (execEaseEntryExpiry n s) := by
  refine nextWithin_ite h fun _ => reportLimiter_within ?_
  rwa [buffers_onEase]

theorem assemblyTimeout_within {k : Fin 32} {s : State} (h : Within (buffers s)) : NextWithin (execAssemblyTimeout k s) := by
  refine nextWithin_ite h fun _ => ?_
  split
  · exact onTake_within h (length_breakContext_queue h.deliveries)
  · exact h

theorem dlvTake_within {s : State} (h : Within (buffers s)) : NextWithin (execDlvTake s) := by
  refine nextWithin_ite h fun _ => ?_
  split
  · split
    · exact release_within h
    · exact h
  · exact h

theorem dlvCut_within {s : State} (h : Within (buffers s)) : NextWithin (execDlvCut s) :=
  nextWithin_ite h fun _ =>
    release_within (s := { s with dlv := { s.dlv with recordsCut := satInc s.dlv.recordsCut } }) h

theorem nop_within {arg : BitVec 12} {s : State} (h : Within (buffers s)) : NextWithin (execNop arg s) := by
  unfold execNop
  simp only
  split <;> exact nextWithin h

theorem roll_within {arg : BitVec 12} {s : State} (h : Within (buffers s)) : NextWithin (execRoll arg s) := by
  unfold execRoll
  simp only
  split <;> exact nextWithin h

theorem eeaddr_within {arg : BitVec 12} {s : State} (h : Within (buffers s)) : NextWithin (execEeaddr arg s) := by
  unfold execEeaddr
  simp only
  split <;> exact nextWithin h

theorem eewrite_within {arg : BitVec 12} {s : State} (h : Within (buffers s)) : NextWithin (execEewrite arg s) := by
  unfold execEewrite
  simp only
  split
  · exact nextWithin h
  · split <;> exact nextWithin h

theorem restart_within {arg : BitVec 12} {straps : Station} {o : OpenParcel} {s : State} (h : Within (buffers s)) :
    NextWithin (execRestart arg straps o s) := by
  unfold execRestart
  simp only
  split
  · exact nextWithin h
  · exact nextWithin (by rw [buffers_replyStatus]; exact stationRestart_within (s := frame 10 arg s) h)

theorem eepromWriteCompletion_within {s : State} (h : Within (buffers s)) : NextWithin (execEepromWriteCompletion s) := by
  unfold execEepromWriteCompletion
  split <;> exact nextWithin h

theorem lightAndLock_within {s : State} (h : Within (buffers s)) : NextWithin (execLightAndLock s) := by
  unfold execLightAndLock onRing
  simp only
  split <;> exact nextWithin h

theorem syncingCharacter_within {c : CharClass} {s : State} (h : Within (buffers s)) :
    NextWithin (execSyncingCharacter c s) := by
  refine nextWithin_ite h fun _ => ?_
  split
  · exact idleCharacter_within h
  all_goals exact h

theorem partialDrop_within {l : List Byte} {c : DropCause} {s : State} (h : Within (buffers s)) :
    NextWithin (execPartialDrop l c s) := by
  refine nextWithin_ite h fun _ => { h with reception := ?_ }
  cases c with
  | startDelimiter => exact Or.inr rfl
  | idle | invalid => exact Or.inl rfl

theorem parcelArrival_within {l : List Byte} {s : State} (h : Within (buffers s)) : NextWithin (execParcelArrival l s) :=
  nextWithin_ite h fun _ =>
    processArrival_within (s := onRing (fun r => { r with reception := none }) s) { h with reception := Or.inl rfl }

/-- Every command keeps the buffers within their marks. -/
theorem exec_within (c : Instr) {s : State} (h : Within (buffers s)) : NextWithin (exec c s) := by
  cases c with
  | powerOnReset => exact nextWithin (poweredOn_within _ _ _ _ _ _ _ _ _)
  | lightAndLock => exact lightAndLock_within h
  | lossOfLightOrLock => exact nextWithin (enterDark_within (s := onRing (fun r => { r with lightAndLock := false }) s) h)
  | inboundUp => exact nextWithin_ite h fun _ => enterUp_within h
  | partialDrop l c => exact partialDrop_within (l := l) (c := c) h
  | parcelArrival => exact parcelArrival_within h
  | sendCompletion => exact sendCompletion_within h
  | alignmentRunEnd => exact alignmentRunEnd_within h
  | eepromReadComplete => exact eepromReadComplete_within h
  | signonTimerExpiry => exact signonTimerExpiry_within h
  | statusTimerExpiry => exact statusTimerExpiry_within h
  | returnWatchExpiry => exact returnWatchExpiry_within h
  | clashExpiry => exact nextWithin_ite h fun _ => h
  | silenceExpiry => exact nextWithin_ite h fun _ => h
  | encoderSample => exact nextWithin (samplePair_within h)
  | indexPulse => exact indexPulse_within h
  | cleanExpiry => exact cleanExpiry_within h
  | coordinateUpdate => exact nextWithin_ite h fun _ => updateInOrder_within h
  | speedWindowExpiry => exact nextWithin_ite h fun _ => h
  | beaconTimerExpiry => exact beaconTimerExpiry_within h
  | staleExpiry => exact staleExpiry_within h
  | removalExpiry => exact removalExpiry_within h
  | alignmentEnd => exact alignmentEnd_within h
  | seamEdge => exact seamEdge_within h
  | triggerPulseEnd i => exact nextWithin_ite h fun _ => onTrig_within h (h.fifo i)
  | lastTriggerTimeLapse i => exact nextWithin_ite h fun _ => onTrig_within h (h.fifo i)
  | triggerTimeout => exact triggerTimeout_within h
  | lineValidRise => exact lineValidRise_within h
  | lineCompletion => exact lineCompletion_within h
  | darkExpiry => exact nextWithin_ite h fun _ => by rwa [buffers_onPort]
  | easeWindowExpiry => exact easeWindowExpiry_within h
  | easeEntryExpiry => exact easeEntryExpiry_within h
  | assemblyTimeout => exact assemblyTimeout_within h
  | dlvTake => exact dlvTake_within h
  | dlvCut => exact dlvCut_within h
  | dlvHold => exact nextWithin h
  | incompleteFrame => exact nextWithin h
  | nop => exact nop_within h
  | item => exact nextWithin h
  | high => exact nextWithin h
  | roll => exact roll_within h
  | eeaddr => exact eeaddr_within h
  | eelo => exact nextWithin h
  | eehi => exact nextWithin h
  | eewrite => exact eewrite_within h
  | eeread => exact nextWithin h
  | clear => exact nextWithin h
  | restart => exact restart_within h
  | unknownCommand => exact nextWithin h
  | eepromWriteCompletion => exact eepromWriteCompletion_within h
  | syncingCharacter => exact syncingCharacter_within h

@[simp] theorem buffers_tick (s : State) : buffers (tick s) = buffers s := by
  have hread : buffers (readOn s) = buffers s := by
    unfold readOn
    split <;> rfl
  exact hread

@[simp] theorem buffers_idleStep (s : State) : buffers (idleStep s) = buffers s := by
  unfold idleStep
  split
  · exact buffers_tick s
  · rfl
  · rfl

/-- Settles O54: every command and the idle step keep the buffers within their marks. -/
theorem stepsKeepTheBuffers : Obligations.StepsKeepTheBuffers := by
  intro s t hs hstep
  simp only [within_iff] at hs ⊢
  unfold step at hstep
  split at hstep
  next => cases hstep; rwa [buffers_idleStep]
  next c rest _ =>
    obtain ⟨u, hu, hw⟩ := exec_within c (s := { s with pending := rest }) hs
    cases hstep.symm.trans hu
    exact hw

end Sys2Proof.FibreRing
end

section
/-! The step on an empty queue: the events of the station's own that have fallen (O3). -/
namespace Sys2Proof.FibreRing
open Sys2Proof.Machine Sys2Proof.Safety

/-! ### The events that have fallen -/

theorem mem_dueIf {b : Bool} {c i : Instr} : c ∈ dueIf b i ↔ b = true ∧ c = i := by
  cases b <;> simp [dueIf]

/-- The model's own test of each event that the station raises by itself. -/
def dueTest (s : State) : Instr → Bool
  | .lightAndLock => s.ring.link == .dark && s.ring.lightAndLock
  | .eepromReadComplete => timerDue s.time s.store.readStart Config.readTime
  | .eepromWriteCompletion => timerDue s.time (s.svc.write.map EepromWrite.began) Config.writeTime
  | .signonTimerExpiry => timerDue s.time s.ctl.signonTimer Config.signonPeriod
  | .statusTimerExpiry => timerDue s.time s.ctl.statusTimer Config.statusPeriod
  | .returnWatchExpiry => returnWatchDue s
  | .sendCompletion => s.ring.outbound.any (fun p => mustSent s (charsToSend p))
  | .alignmentRunEnd => s.ring.aligning && mustSent s Config.idlesToUp
  | .coordinateUpdate => reached s.time s.strip.updateTimer Config.updatePeriod
  | .speedWindowExpiry => reached s.time s.strip.windowTimer Config.speedWindow
  | .beaconTimerExpiry => timerDue s.time s.strip.beaconTimer Config.beaconPeriod
  | .cleanExpiry => cleanDue s
  | .alignmentEnd => timerDue s.time s.strip.alignStart Config.listenTime
  | .easeWindowExpiry => reached s.time s.ease.windowTimer Config.easeWindow
  | .clashExpiry n => clashDue s n
  | .silenceExpiry n => silenceDue s n
  | .staleExpiry n => staleDue s n
  | .removalExpiry n => removalDue s n
  | .easeEntryExpiry n => easeDue s n
  | .triggerPulseEnd i => timerDue s.time s.cams[i].trig.pulse Config.pulseTime
  | .lastTriggerTimeLapse i => timerDue s.time s.cams[i].trig.lastTrigger Config.triggerLapse
  | .triggerTimeout i => timeoutDue s i
  | .darkExpiry i => darkDue s i
  | .assemblyTimeout k => assemblyDue s k
  | _ => false

theorem mem_dueOutbound (s : State) (c : Instr) :
    c ∈ dueOutbound s ↔
      (s.ring.outbound.any (fun p => mustSent s (charsToSend p)) = true ∧ c = .sendCompletion)
        ∨ (s.ring.aligning && mustSent s Config.idlesToUp) = true ∧ c = .alignmentRunEnd := by
  unfold dueOutbound
  rw [List.mem_append, mem_dueIf]
  cases s.ring.outbound with
  | none => simp
  | some p => rw [mem_dueIf]; rfl

/-- The due events are those whose test holds, each raised by the unit that it belongs to. -/
theorem mem_dueEvents (s : State) (c : Instr) : c ∈ dueEvents s ↔ dueTest s c = true := by
  have hunits : c ∈ dueEvents s ↔ c ∈ dueControl s ∨ c ∈ dueOutbound s ∨ c ∈ dueStrip s ∨ (∃ n, c ∈ dueStation s n)
      ∨ (∃ i, c ∈ dueCamera s i) ∨ ∃ k, c ∈ dueContext s k := by
    simp [dueEvents]
  rw [hunits]
  simp only [mem_dueOutbound, dueControl, dueStrip, dueStation, dueCamera, dueContext, List.mem_append, mem_dueIf]
  cases c <;> simp [dueTest]

theorem receives_iff (p : PortState) : p.receives = true ↔ p = .sizing ∨ p = .locked ∨ p = .mismatch := by
  cases p <;> simp [PortState.receives]

/-- Each test of the model says that the event has fallen, at the end of its period or delay. -/
theorem dueTest_iff (s : State) (c : Instr) : dueTest s c = true ↔ HasFallen s c := by
  cases c with
  | lightAndLock => simp [dueTest, HasFallen]
  | eepromReadComplete | signonTimerExpiry | statusTimerExpiry | beaconTimerExpiry | alignmentEnd | triggerPulseEnd
    | lastTriggerTimeLapse => exact timerDue_iff _ _ _
  | eepromWriteCompletion =>
    refine (timerDue_iff _ _ _).trans ?_
    cases hw : s.svc.write <;> simp [HasFallen, hw, Config.writeTime]
  | returnWatchExpiry => exact returnWatchDue_iff s
  | sendCompletion =>
    simp only [dueTest, Option.any_eq_true, mustSent_iff]
    exact Iff.rfl
  | alignmentRunEnd =>
    simp only [dueTest, Bool.and_eq_true, mustSent_iff]
    exact Iff.rfl
  | coordinateUpdate | speedWindowExpiry | easeWindowExpiry => exact reached_iff _ _ _
  | cleanExpiry => exact cleanDue_iff s
  | clashExpiry n => exact clashDue_iff s n
  | silenceExpiry n => exact silenceDue_iff s n
  | staleExpiry n => exact staleDue_iff s n
  | removalExpiry n => exact removalDue_iff s n
  | easeEntryExpiry n => exact easeDue_iff s n
  | triggerTimeout i => exact timeoutDue_iff s i
  | darkExpiry i =>
    refine (darkDue_iff s i).trans ?_
    rw [receives_iff]
    exact Iff.rfl
  | assemblyTimeout k => exact assemblyDue_iff s k
  | _ => simp [dueTest, HasFallen]

theorem mem_dueEvents_iff_hasFallen (s : State) (c : Instr) : c ∈ dueEvents s ↔ HasFallen s c :=
  (mem_dueEvents s c).trans (dueTest_iff s c)

/-! ### A unit of station time -/

/-- The age of the idle run after a unit of station time (R14). -/
def idleUnitsAfter (r : RingPort) : Nat :=
  if r.outbound = none ∧ r.aligning = false then min 2 (r.idleUnits + 1) else r.idleUnits

/-- With no read in progress, a unit of time changes nothing but the time and the age of the idle run. -/
theorem tick_of_no_read {s : State} (h : s.store.readStart = none ∨ 128 ≤ s.store.imageRead) :
    tick s = { s with time := s.time + 1, ring := { s.ring with idleUnits := idleUnitsAfter s.ring } } := by
  have hread : readOn s = s := by
    unfold readOn
    rw [if_neg]
    rcases h with h | h <;> simp [h]
  unfold tick idleUnitsAfter
  simp only [hread, Bool.and_eq_true, Option.isNone_iff_eq_none, Bool.not_eq_true']

/-- The mark below which the words of the image are read, after a unit of the read (R176, log 6). -/
def markAfter (s : State) : Nat := min 128 (s.store.imageRead + Config.readAdvance s.freeCount)

/-- With a read in progress, a unit of time raises its mark too, and the words below it are the EEPROM's (R176). -/
theorem tick_of_read {s : State} (h : s.store.readStart ≠ none) (hm : s.store.imageRead < 128) :
    tick s = { s with
      time := s.time + 1, freeCount := s.freeCount + 1, ring := { s.ring with idleUnits := idleUnitsAfter s.ring },
      store := { s.store with
        imageRead := markAfter s, image := readWords (markAfter s) s.store.eeprom s.store.image } } := by
  have hread : readOn s = { s.bump with
      store := { s.store with
        imageRead := markAfter s, image := readWords (markAfter s) s.store.eeprom s.store.image } } := by
    unfold readOn
    rw [if_pos (by simp [Option.isSome_iff_ne_none.mpr h, hm])]
    rfl
  unfold tick idleUnitsAfter
  simp only [hread, State.bump_rest, State.bump_self, Bool.and_eq_true, Option.isNone_iff_eq_none, Bool.not_eq_true']

/-- Of several due events one is picked (log 3). -/
theorem pickEvent_mem (n : Nat) {l : List Instr} (hl : l ≠ []) : ∃ c ∈ l, pickEvent n l = some c := by
  have hlt : Config.eventOrder n % l.length < l.length := Nat.mod_lt _ (List.length_pos_iff.mpr hl)
  exact ⟨_, List.getElem_mem hlt, List.getElem?_eq_getElem hlt⟩

/-- With events due, one of them joins the empty queue, and no time passes. -/
theorem idleStep_of_due {s : State} (h : dueEvents s ≠ []) :
    ∃ c ∈ dueEvents s, ∃ n, idleStep s = { s with pending := [c], freeCount := n } := by
  unfold idleStep
  split
  next e => exact absurd e h
  next c e => exact ⟨c, by simp [e], s.freeCount, rfl⟩
  next c d l e =>
    obtain ⟨x, hx, hpick⟩ := pickEvent_mem s.freeCount (List.cons_ne_nil c (d :: l))
    exact ⟨x, e ▸ hx, s.freeCount + 1, by rw [hpick]; rfl⟩

/-- Settles O3: the due events are those that have fallen, and the idle step by whether there are any. -/
theorem emptyQueueStep : Obligations.EmptyQueueStep := by
  refine ⟨mem_dueEvents_iff_hasFallen, fun s hempty => ?_⟩
  have hstep : step s = .next (idleStep s) := by rw [step, hempty]
  rw [hstep]
  constructor
  · intro hnone
    have htick : idleStep s = tick s := by rw [idleStep, hnone]
    refine ⟨tick s, by rw [htick], ?_⟩
    by_cases hread : s.store.readStart ≠ none ∧ s.store.imageRead < 128
    · obtain ⟨hstart, hmark⟩ := hread
      rw [tick_of_read hstart hmark]
      refine ⟨rfl, rfl, rfl, fun h => ?_, fun _ _ => ⟨?_, min_le_left _ _, readWords_getElem _ _ _⟩⟩
      · rcases h with h | h
        · exact absurd h hstart
        · omega
      · exact le_min hmark.le (Nat.le_add_right _ _)
    · have hstill : s.store.readStart = none ∨ 128 ≤ s.store.imageRead := by
        by_contra hne
        exact hread ⟨fun h => hne (.inl h), Nat.lt_of_not_le fun h => hne (.inr h)⟩
      rw [tick_of_no_read hstill]
      exact ⟨rfl, rfl, rfl, fun _ => rfl, fun hstart hmark => absurd ⟨hstart, hmark⟩ hread⟩
  · intro hdue
    obtain ⟨c, hc, n, h⟩ := idleStep_of_due hdue
    exact ⟨c, hc, n, by rw [h]⟩

end Sys2Proof.FibreRing
end

section
/-! The inbound link and the arrivals: light and lock (O12), the characters of the link (O13), unsound and unknown parcels (O14),
own parcels and orphans (O15). -/
namespace Sys2Proof.FibreRing
open Sys2Proof.Machine Sys2Proof.Safety

/-! ### The link -/

theorem linkDark_eq (s : State) : linkDark s = { s with ctl :=
    if s.ctl.state = .joining ∨ s.ctl.state = .running then { s.ctl with state := .ringOpen, signonTimer := none }
    else if s.ctl.state = .passOnly then { s.ctl with signonTimer := none }
    else s.ctl } := by
  unfold linkDark enterOpen
  cases h : s.ctl.state <;> simp

theorem linkUp_of_signon {s : State} (h : s.ctl.state = .joining ∨ s.ctl.state = .passOnly) :
    linkUp s = requestSignon { s with ctl := { s.ctl with signonTimer := some s.time } } := by
  unfold linkUp
  rcases h with h | h <;> rw [h]

theorem linkUp_of_quiet {s : State} (hj : s.ctl.state ≠ .joining) (hp : s.ctl.state ≠ .passOnly) : linkUp s = s := by
  unfold linkUp
  split
  next h => exact absurd h hj
  next h => exact absurd h hp
  all_goals rfl

/-- The link enters DARK from another state (R1, R3, R25). -/
theorem enterDark_of_lit {o : OpenParcel} {s : State} (h : s.ring.link ≠ .dark) :
    enterDark o s = linkDark { s with ring := { s.ring with
      link := .dark, reception := none,
      partialDrops := if s.ring.link = .up ∧ (s.ring.reception.isSome = true ∨ o.isSome = true)
        then satInc s.ring.partialDrops else s.ring.partialDrops } } := by
  unfold enterDark onRing
  rw [if_neg h]
  simp only [Bool.and_eq_true, Bool.or_eq_true, beq_iff_eq]

theorem enterDark_of_dark {o : OpenParcel} {s : State} (h : s.ring.link = .dark) : enterDark o s = s := by
  unfold enterDark
  rw [if_pos h]

/-- Settles O12, by whether the link is DARK. -/
theorem lightAndLockOfTheLink : Obligations.LightAndLockOfTheLink := by
  intro s
  refine ⟨rfl, fun opened => ?_⟩
  show Host.Outcome.next (enterDark opened (onRing (fun r => { r with lightAndLock := false }) s)) = _
  by_cases h : s.ring.link = .dark
  · rw [enterDark_of_dark]
    · simp [onRing, h]
    · exact h
  · rw [enterDark_of_lit, linkDark_eq]
    · simp only [onRing, if_neg h]
      rfl
    · exact h

/-- The 64th idle character brings the link to UP (R1). -/
theorem exec_inboundUp_of_63 {s : State} (hs : s.ring.link = .syncing) (h : s.ring.idleRun = 63) :
    exec .inboundUp s = .next (enterUp s) := by
  show Host.Outcome.next (if _ then _ else _) = _
  rw [if_pos ⟨hs, by rw [h]; rfl⟩]

theorem exec_inboundUp_of_not {s : State} (h : ¬ (s.ring.link = .syncing ∧ s.ring.idleRun + 1 = Config.idlesToUp)) :
    exec .inboundUp s = .next s := by
  show Host.Outcome.next (if _ then _ else _) = _
  rw [if_neg h]

theorem exec_syncingCharacter_idle {s : State} (hs : s.ring.link = .syncing) :
    exec (.syncingCharacter .idle) s = .next (idleCharacter s) := by
  show Host.Outcome.next (if _ then _ else _) = _
  rw [if_pos hs]

/-- Settles O13, by the link state and the idle characters before this one. -/
theorem linkCharacters : Obligations.LinkCharacters := by
  refine ⟨fun c s hs => ⟨?_, exec_inboundUp_of_not fun h => hs h.1⟩, fun c s hs hc => ?_, fun s hs hrun => ⟨?_, ?_⟩,
    fun s hs hrun => ⟨?_, fun hj hp => ?_, fun hq => ?_⟩, fun chars cause s => ?_⟩
  · show Host.Outcome.next (if _ then _ else _) = _
    rw [if_neg hs]
  · show Host.Outcome.next (if _ then _ else _) = _
    rw [if_pos hs]
    cases c with
    | idle => exact absurd rfl hc
    | startDelimiter | endDelimiter | data | invalid => rfl
  · rw [exec_syncingCharacter_idle hs, idleCharacter, if_pos (by unfold Config.idlesToUp; omega)]
    rfl
  · exact exec_inboundUp_of_not fun h => by unfold Config.idlesToUp at h; omega
  · rw [exec_syncingCharacter_idle hs, exec_inboundUp_of_63 hs hrun, idleCharacter,
      if_neg (by unfold Config.idlesToUp; omega)]
  · rw [exec_inboundUp_of_63 hs hrun, enterUp, linkUp_of_quiet]
    · rfl
    · exact hj
    · exact hp
  · rw [exec_inboundUp_of_63 hs hrun, enterUp, linkUp_of_signon]
    · rfl
    · exact hq
  · show Host.Outcome.next (if _ then _ else _) = _
    split
    · cases cause <;> rfl
    · rfl

/-! ### Framing and soundness -/

/-- The reception record of a parcel: its first 2,080 characters, and the count of all (R2). -/
theorem receiveRun_none (chars : List Byte) :
    receiveRun none chars = { bytes := chars.take 2080, count := chars.length } := by
  induction chars using List.reverseRecOn with
  | nil => rfl
  | append_singleton l b ih =>
    have hlast : receiveRun none (l ++ [b]) = receiveData (receiveRun none l) b := List.foldl_append ..
    rw [hlast, ih, receiveData, List.take_append, List.length_append, List.length_singleton]
    unfold Config.maxParcel
    by_cases h : l.length < 2080
    · rw [if_pos h, List.take_of_length_le (l := [b]) (by simp; omega)]
    · rw [if_neg h, show 2080 - l.length = 0 by omega, List.take_zero, List.append_nil]

theorem receiveRun_fresh {r : Option Reception} (h : r = none ∨ r = some { bytes := [], count := 0 }) (chars : List Byte) :
    receiveRun r chars = { bytes := chars.take 2080, count := chars.length } := by
  rw [← receiveRun_none]
  rcases h with rfl | rfl <;> rfl

/-- The four tests of soundness (R4). -/
theorem sound_iff (v : Reception) : sound v = true ↔
    11 ≤ v.count ∧ v.count ≤ 2080 ∧ v.count = 7 + lengthField v.bytes + 4 ∧ byteAt v.bytes 6 = 7
    ∧ field v.bytes (v.count - 4) 4 32 = crc32 (v.bytes.take (v.count - 4)) := by
  have hcheck : (byteAt v.bytes 6).toNat = 7 ↔ byteAt v.bytes 6 = 7 :=
    ⟨fun h => BitVec.eq_of_toNat_eq h, fun h => by rw [h]; rfl⟩
  rw [← hcheck]
  exact decide_eq_true_iff

theorem sizeOk_iff (k : Kind) (n : Nat) : k.sizeOk n = true ↔
    (k = .line ∧ 33 ≤ n ∧ n ≤ 2080) ∨ (k = .status ∧ n = 128) ∨ (k ≠ .line ∧ k ≠ .status ∧ n = 64) := by
  cases k <;> simp [Kind.sizeOk]

/-! ### Arrivals -/

theorem exec_parcelArrival {chars : List Byte} {s : State} (h : s.ring.link = .up) :
    exec (.parcelArrival chars) s = .next (processArrival (receiveRun s.ring.reception chars) (received s)) := by
  show Host.Outcome.next (if _ then _ else _) = _
  rw [if_pos h]
  rfl

theorem processArrival_of_unsound {r : Reception} {s : State} (h : sound r = false) :
    processArrival r s = onRing (fun v => { v with crcFaults := satInc v.crcFaults }) s := by
  rw [processArrival, if_neg (by simp [h])]

theorem processArrival_of_unknown {r : Reception} {s : State} (h : sound r = true)
    (hk : ∀ k, kindField r.bytes = some k → k.sizeOk r.count = false) :
    processArrival r s = onRing (fun v => { v with unknownKinds := satInc v.unknownKinds }) s := by
  rw [processArrival, if_pos h]
  split
  next k e => rw [if_neg (by simp [hk k e])]
  next => rfl

/-- Settles O14: the tests of R4 and R5, and what a parcel that fails them does. -/
theorem unsoundAndUnknownParcels : Obligations.UnsoundAndUnknownParcels := by
  refine ⟨sound_iff, sizeOk_iff, fun _ => rfl, fun chars s hup hun => ?_, fun chars s hup hsound hkind => ?_, receiveRun_none,
    fun s h => ?_, fun c => satInc_toNat c⟩
  · rw [exec_parcelArrival hup, processArrival_of_unsound]
    · rfl
    · rw [← sound_iff] at hun
      simpa using hun
  · rw [exec_parcelArrival hup, processArrival_of_unknown hsound]
    · rfl
    · intro k hk
      have hsize := hkind k hk
      rw [Bool.eq_false_iff, Ne, sizeOk_iff]
      grind
  · rfl

/-- A sound parcel of known kind and size is an own parcel, an orphan, or forwarded (R6 to R11). -/
theorem exec_parcelArrival_of_brings {chars p : List Byte} {k : Kind} {s : State} (h : Brings s chars k p) :
    exec (.parcelArrival chars) s = .next (processKnown k p (received s)) := by
  obtain ⟨hup, hsound, hkind, hsize, rfl⟩ := h
  rw [exec_parcelArrival hup, processArrival, if_pos hsound, hkind]
  simp only
  rw [if_pos hsize]
  rfl

theorem isOwn_iff (s : State) (p : List Byte) : isOwn (received s) p = true ↔ OwnParcel s p := by
  have hctl : (received s).ctl = s.ctl := rfl
  unfold isOwn OwnParcel
  rw [hctl]
  cases s.ctl.identity <;> simp

theorem exec_ownParcel {chars p : List Byte} {k : Kind} {s : State} (h : Brings s chars k p) (ho : OwnParcel s p) :
    exec (.parcelArrival chars) s = .next (ownReturn k p (received s)) := by
  rw [exec_parcelArrival_of_brings h, processKnown, if_pos ((isOwn_iff s p).mpr ho)]

theorem exec_orphan {chars p : List Byte} {k : Kind} {s : State} (h : Brings s chars k p) (ho : ¬ OwnParcel s p)
    (hh : hopsField p = 0) :
    exec (.parcelArrival chars) s =
      .next { s with ring := { s.ring with reception := none, orphans := satInc s.ring.orphans } } := by
  rw [exec_parcelArrival_of_brings h, processKnown, if_neg (mt (isOwn_iff s p).mp ho), if_pos hh]
  rfl

theorem exec_peerParcel {chars p : List Byte} {k : Kind} {s : State} (h : Brings s chars k p) (ho : ¬ OwnParcel s p)
    (hh : hopsField p ≠ 0) :
    exec (.parcelArrival chars) s =
      .next (forward (prepared s.ring.linkDelay k p) (offerPeer k p (received s))) := by
  rw [exec_parcelArrival_of_brings h, processKnown, if_neg (mt (isOwn_iff s p).mp ho), if_neg hh]
  rfl

/-! ### Own returns -/

theorem enterRunning_eq (s : State) : enterRunning s = { s with ctl := { s.ctl with
    state := if s.ctl.state = .joining ∨ s.ctl.state = .ringOpen then .running else s.ctl.state,
    signonTimer := if s.ctl.state = .joining then none else s.ctl.signonTimer } } := by
  unfold enterRunning
  obtain ⟨_, _, _, _, ctl, _⟩ := s
  obtain ⟨_, _, _, state, _⟩ := ctl
  cases state <;> rfl

theorem enterRunning_of_start {s : State} (h : s.ctl.state = .start) : enterRunning s = s := by
  rw [enterRunning, h]

theorem dropReturned_of_absent {q : Word16} {l : List ReturnRecord} (h : ∀ r ∈ l, r.sequence ≠ q) : dropReturned q l = l := by
  unfold dropReturned
  rw [if_neg]
  simpa using h

/-- The first record of the sequence goes, and every older one (R27). -/
theorem dropReturned_of_first {q : Word16} {before after : List ReturnRecord} {r : ReturnRecord} (hr : r.sequence = q)
    (hb : ∀ x ∈ before, x.sequence ≠ q) : dropReturned q (before ++ r :: after) = after := by
  unfold dropReturned
  rw [if_pos (by simp [hr]), List.dropWhile_append_of_pos (by simpa using hb)]
  simp [hr]

/-- What a returning SIGNON or STATUS leaves of the pending-return list (R26, R27). -/
def returnsAfter (k : Kind) (p : List Byte) (c : StationControl) : List ReturnRecord :=
  if k = .status ∧ c.state ≠ .start then dropReturned (field p 11 2 16) c.pendingReturn else c.pendingReturn

/-- A returning SIGNON or STATUS acts on station control alone (R26, R27). -/
theorem ownReturn_control {k : Kind} {p : List Byte} {s : State} (h : k = .signon ∨ k = .status) :
    ownReturn k p s = enterRunning { s with ctl := { s.ctl with pendingReturn := returnsAfter k p s.ctl } } := by
  unfold returnsAfter
  rcases h with rfl | rfl
  · show ownSignonReturn s = _
    unfold ownSignonReturn
    split
    next hs => exact (enterRunning_of_start hs).symm
    next => rfl
  · show ownStatusReturn p s = _
    unfold ownStatusReturn
    split
    next hs =>
      rw [if_neg fun h => h.2 hs]
      exact (enterRunning_of_start hs).symm
    next hs =>
      rw [if_pos ⟨rfl, hs⟩]
      rfl

/-- A LINE acts on the take-off unit alone (R146). -/
theorem lineOffer_eq (p : List Byte) (s : State) : lineOffer p s = { s with take := (lineOffer p s).take } := by
  unfold lineOffer
  split
  · rfl
  · split
    · simp only
      split
      · rfl
      · split <;> rfl
    · rfl

/-- Settles O15, by the kind of the own parcel. -/
theorem ownParcelsAndOrphans : Obligations.OwnParcelsAndOrphans := by
  intro chars p k s hb
  refine ⟨fun ho => ⟨fun hk => ?_, fun hk => ?_, fun hk => ?_⟩, exec_orphan hb⟩
  · rw [exec_ownParcel hb ho]
    rcases hk with rfl | rfl | rfl <;> rfl
  · subst hk
    rw [exec_ownParcel hb ho]
    exact congrArg _ (lineOffer_eq p (received s))
  · refine ⟨returnsAfter k p s.ctl, ?_, ?_, ?_⟩
    · rw [exec_ownParcel hb ho, ownReturn_control hk, enterRunning_eq]
      rfl
    · rintro (rfl | hs) <;> simp [returnsAfter, *]
    · rintro rfl hs
      rw [returnsAfter, if_pos ⟨rfl, hs⟩]
      refine ⟨dropReturned_of_absent, ?_⟩
      rintro before r after e hr hbefore
      rw [e, dropReturned_of_first hr hbefore]

end Sys2Proof.FibreRing
end

section
/-! Peer parcels are offered and forwarded (O16). -/
namespace Sys2Proof.FibreRing
open Sys2Proof.Machine Sys2Proof.Safety

/-! ### A parcel with one hop less (R10) -/

theorem lessOneHop_eq_set {p : List Byte} (h : 2 ≤ p.length) : lessOneHop p = p.set 1 (byteAt p 1 - 0x10) := by
  rw [List.set_eq_take_append_cons_drop, if_pos (by omega)]
  simp [lessOneHop, putBytes]

theorem lessOneHop_length {p : List Byte} (h : 2 ≤ p.length) : (lessOneHop p).length = p.length := by
  rw [lessOneHop_eq_set h, List.length_set]

theorem byteAt_lessOneHop_one {p : List Byte} (h : 2 ≤ p.length) : byteAt (lessOneHop p) 1 = byteAt p 1 - 0x10 := by
  rw [lessOneHop_eq_set h]
  simp [byteAt, List.getD_eq_getElem?_getD, show 1 < p.length by omega]

theorem byteAt_lessOneHop {p : List Byte} (h : 2 ≤ p.length) {i : Nat} (hi : i ≠ 1) : byteAt (lessOneHop p) i = byteAt p i := by
  rw [lessOneHop_eq_set h]
  simp [byteAt, List.getD_eq_getElem?_getD, List.getElem?_set_ne hi.symm]

theorem ageField_lessOneHop {p : List Byte} (h : 2 ≤ p.length) : ageField (lessOneHop p) = ageField p := by
  rw [lessOneHop_eq_set h, ageField, ageField, field, field, List.drop_set_of_lt (by omega)]

/-- Hops-left is the high half of its byte, so that one hop less leaves the source. -/
theorem byteAt_one_lessOneHop {p : List Byte} (h : 2 ≤ p.length) (hh : hopsField p ≠ 0) :
    (byteAt (lessOneHop p) 1).toNat = (byteAt p 1).toNat - 16 ∧ 16 ≤ (byteAt p 1).toNat := by
  have hbyte := (byteAt p 1).isLt
  unfold hopsField at hh
  rw [byteAt_lessOneHop_one h, BitVec.toNat_sub, show (0x10 : Byte).toNat = 16 from rfl]
  omega

/-! ### The prepared parcel (R10) -/

theorem prepared_length {p : List Byte} {k : Kind} {d : Word16} (h : 2 ≤ p.length) (hk : k = .beacon → 19 ≤ p.length) :
    (prepared d k p).length = p.length := by
  unfold prepared
  split
  next hb => rw [addAge_length (by rw [lessOneHop_length h]; exact hk hb), lessOneHop_length h]
  next => exact lessOneHop_length h

theorem byteAt_prepared {p : List Byte} {k : Kind} {d : Word16} (h : 2 ≤ p.length) (hk : k = .beacon → 19 ≤ p.length) {i : Nat}
    (hi : ¬ (k = .beacon ∧ 16 ≤ i ∧ i ≤ 18)) : byteAt (prepared d k p) i = byteAt (lessOneHop p) i := by
  unfold prepared
  split
  next hb => exact byteAt_addAge (by rw [lessOneHop_length h]; exact hk hb) _ _ fun hc => hi ⟨hb, hc⟩
  next => rfl

theorem ageField_prepared {p : List Byte} {d : Word16} (h : 19 ≤ p.length) :
    (ageField (prepared d .beacon p)).toNat = min ((ageField p).toNat + d.toNat) 16777215 := by
  have hl : 2 ≤ p.length := by omega
  rw [prepared, if_pos rfl, ageField_addAge (by rwa [lessOneHop_length hl]), ageField_lessOneHop hl]

/-- The header and body of a sound parcel are at least a header, and those of a BEACON 60 bytes (R4, Table 1.4). -/
theorem brings_length {chars p : List Byte} {k : Kind} {s : State} (hf : ReceptionFresh s) (h : Brings s chars k p) :
    2 ≤ p.length ∧ (k = .beacon → 19 ≤ p.length) := by
  obtain ⟨-, hsound, -, hsize, rfl⟩ := h
  rw [receiveRun_fresh hf] at *
  obtain ⟨hlow, hhigh, -⟩ := (sound_iff _).mp hsound
  simp only [List.length_take] at *
  refine ⟨by omega, ?_⟩
  rintro rfl
  have h64 : chars.length = 64 := by simpa [Kind.sizeOk] using hsize
  omega

/-! ### The transit buffer (R11) -/

theorem forward_of_fits {c : List Byte} {t : State} (h : transitOccupancy t.ring.transit + (c.length + 4) ≤ 16384) :
    forward c t = freeWhileIdle { t with ring := { t.ring with
      transit := t.ring.transit ++ [{ content := c, arrival := t.time }] } } := by
  unfold forward
  exact if_pos h

theorem forward_of_full {c : List Byte} {t : State} (h : 16384 < transitOccupancy t.ring.transit + (c.length + 4)) :
    forward c t = { t with ring := { t.ring with transitOverruns := satInc t.ring.transitOverruns } } := by
  unfold forward
  exact if_neg (Nat.not_le.mpr h)

/-- Settles O16: the prepared parcel, and what becomes of it at the transit buffer. -/
theorem peerParcelsAreForwarded : Obligations.PeerParcelsAreForwarded := by
  refine ⟨fun p s => ⟨rfl, rfl, fun hp => ⟨addAge p s.ring.linkDelay.toNat, rfl, addAge_length hp _, ageField_addAge hp _,
    fun i hi => byteAt_addAge hp _ i hi⟩⟩, fun chars p k s hf hb ho hh => ?_⟩
  obtain ⟨hlen, hbeacon⟩ := brings_length hf hb
  obtain ⟨hbyte, hhops⟩ := byteAt_one_lessOneHop hlen hh
  have hone : byteAt (prepared s.ring.linkDelay k p) 1 = byteAt (lessOneHop p) 1 := byteAt_prepared hlen hbeacon (by omega)
  refine ⟨prepared s.ring.linkDelay k p, ⟨prepared_length hlen hbeacon, ?_, ?_, ?_, fun i hi hage => ?_⟩,
    exec_peerParcel hb ho hh, fun t => ⟨forward_of_fits, forward_of_full⟩⟩
  · rw [hopsField, hopsField, hone, hbyte]
    omega
  · rw [sourceField, sourceField, hone, hbyte]
    apply Fin.ext
    simp only [Fin.ofNat]
    omega
  · rintro rfl
    exact ageField_prepared (hbeacon rfl)
  · rw [byteAt_prepared hlen hbeacon hage, byteAt_lessOneHop hlen hi]

end Sys2Proof.FibreRing
end

section
/-! The state after a power-on reset (O5) and its invariants (O60). -/
namespace Sys2Proof.FibreRing
open Sys2Proof.Machine Sys2Proof.Safety

/-- A word being written at a power-on reset holds its old or the written value (R175). -/
theorem tornEeprom_get (s : State) (j : Fin 128) :
    (tornEeprom s)[j] = s.store.eeprom[j]
      ∨ ∃ w, s.svc.write = some w ∧ w.address = j ∧ (tornEeprom s)[j] = w.value := by
  unfold tornEeprom
  split
  next w hw =>
    rw [put_get]
    split
    next hj =>
      subst hj
      cases Config.tornWriteLands s.freeCount
      · exact .inl rfl
      · exact .inr ⟨w, hw, rfl, rfl⟩
    next => exact .inl rfl
  next => exact .inl rfl

/-- The status reply OK of a station in START with no write in progress and no hold pending is 0 (Section 12.3). -/
theorem statusReply_idle {t : State} (hs : t.ctl.state = .start) (hw : t.svc.write = none) (hh : t.svc.holdPending = false) :
    statusReply t .ok = 0 := by
  rw [statusReply, hs, hw, hh]
  rfl

/-- Settles O5, block by block: the ring port, the strip position unit, the seam unit, the cameras, the segmenter, the ease unit,
the take-off unit, the delivery port, the service line, and the settings store with the queue. -/
theorem powerOnResetOfTheBlocks : Obligations.PowerOnResetOfTheBlocks := by
  intro straps a b s
  have hbeacons (n : Station) : (StripUnit.reset a b).table[n] = .blank := replicate_get _ n
  have heases (n : Station) : EaseUnit.reset.table[n] = .blank := replicate_get _ n
  have hcontexts (k : Fin 32) : TakeOffUnit.reset.contexts[k] = none := replicate_get _ k
  have hfree : TakeOffUnit.reset.free = List.finRange 512 := by rw [TakeOffUnit.reset]
  have himage (j : Fin 128) : (SettingsStore.reset (tornEeprom s)).image[j] = 0 := replicate_get _ j
  refine ⟨_, rfl, rfl,
    rfl, rfl, rfl, rfl, rfl, rfl, rfl, rfl, rfl, hbeacons, rfl, rfl, rfl, rfl, rfl, rfl, rfl, rfl, rfl, rfl, rfl, rfl, rfl, rfl,
    rfl, rfl, rfl, rfl, rfl, rfl, rfl, rfl, rfl, rfl, rfl, rfl,
    fun i => ?_, rfl,
    rfl, rfl, rfl, rfl, rfl, rfl, rfl, rfl, heases,
    hcontexts, hfree, rfl, rfl, rfl, rfl, rfl, rfl, rfl,
    rfl,
    rfl, rfl, rfl, rfl, rfl, rfl, (statusReply_idle rfl rfl rfl).symm,
    rfl, rfl, himage, tornEeprom_get s, rfl⟩
  have hcam : Camera.reset .off s.cams[i].port.lineValid = _ := (poweredOn_cams (tornEeprom s) straps a b s.ring.lightAndLock
    (fun i => s.cams[i].port.lineValid) s.dlv.holdPin (s.freeCount + 1) s.pending i).symm
  rw [← hcam]
  exact ⟨rfl, rfl, rfl⟩

/-! ### The invariants of the state after reset -/

theorem reset_within : Within (buffers State.reset) := poweredOn_within _ _ _ _ _ _ _ _ _

/-- Every block is on the free list (R155). -/
theorem blocksOf_reset : blocksOf TakeOffUnit.reset = List.finRange 512 := by
  simp [blocksOf, TakeOffUnit.reset, contextBlocks]

theorem contexts_reset (k : Fin 32) : State.reset.take.contexts[k] = none := replicate_get _ _

theorem linesBalance_reset : LinesBalance State.reset := by
  intro i
  rw [State.reset, poweredOn_cams]
  rfl

/-- Settles O60: the buffers are within their marks, and the other blocks are empty. -/
theorem resetHasTheInvariants : Obligations.ResetHasTheInvariants := by
  obtain ⟨htransit, hidle, hreception, hlines, hcontrol, hlists⟩ := (within_iff _).mpr reset_within
  refine ⟨htransit, hidle, hreception, hlines, hcontrol, hlists, ⟨Nat.zero_le _, .nil⟩, .of_eq blocksOf_reset, ?_, ?_, rfl,
    Memory.wf_empty, ⟨nofun, rfl⟩, ⟨?_, fun _ => rfl, nofun, ⟨fun _ => rfl, fun _ => rfl⟩, rfl⟩, linesBalance_reset⟩
  · intro j k x y hj
    exact nomatch (contexts_reset j).symm.trans hj
  · intro k x hk
    exact nomatch (contexts_reset k).symm.trans hk
  · rintro (h | h | h) <;> cases h

end Sys2Proof.FibreRing
end

section
/-! The outbound port: the scheduler's choices (O28) and when it chooses (O30). -/
namespace Sys2Proof.FibreRing
open Sys2Proof.Machine Sys2Proof.Safety

/-! ### The limiter (R140) -/

/-- The limiter allows a line while u is below sixteen times the share of every live entry. -/
theorem limiterAllows_iff (e : EaseUnit) :
    limiterAllows e = true ↔ ∀ n : Station, e.table[n].live = true → e.bytes < e.table[n].share.toNat * 16 := by
  by_cases hlive : ∃ n : Station, e.table[n].live = true
  · obtain ⟨n, hn⟩ := hlive
    obtain ⟨m, hm, hleast⟩ := Finset.exists_min_image (Finset.univ.filter fun n : Station => e.table[n].live = true)
      (fun n => e.table[n].share.toNat) ⟨n, by simpa using hn⟩
    have hm : e.table[m].live = true := by simpa using hm
    have hleast : ∀ k : Station, e.table[k].live = true → e.table[m].share.toNat ≤ e.table[k].share.toNat :=
      fun k hk => hleast k (by simpa using hk)
    rw [limiterAllows, lineLimit_eq_some hm hleast]
    simp only [decide_eq_true_eq]
    exact ⟨fun h k hk => h.trans_le (Nat.mul_le_mul_right 16 (hleast k hk)), fun h => h m hm⟩
  · have hnone : ∀ n : Station, e.table[n].live = false := fun n => by
      simpa using fun h => hlive ⟨n, h⟩
    rw [limiterAllows, lineLimit_eq_none hnone]
    exact ⟨fun _ n hn => absurd ⟨n, hn⟩ hlive, fun _ => rfl⟩

/-! ### The decision (R15, R16, R132) -/

/-- The control queue as the scheduler finds it at step 2: without the disallowed parcels at its head (R16). -/
def allowedControl (s : State) : List ControlParcel :=
  s.seg.control.dropWhile (fun p => !controlAllowed s.ctl.state p.body)

/-- The ease unit after a decision that went to transit or not, with `n` bytes of a line started (R132). -/
def countedEase (s : State) (lost : Bool) (n : Nat) : EaseUnit :=
  if s.seg.lines = [] then s.ease
  else { s.ease with waiting := s.ease.waiting + 1, blocked := s.ease.blocked + lost.toNat, bytes := s.ease.bytes + n }

theorem countDecision_eq (c : Choice) (s : State) : countDecision c s = { s with
    ease := countedEase s (c = .transit) (if c = .line then (s.seg.lines.head?.map LineParcel.size).getD 0 else 0) } := by
  unfold countDecision countedEase
  cases hl : s.seg.lines with
  | nil => simp
  | cons p rest => cases c <;> simp

theorem clearDown_of_full {s : State} (h : 8192 < transitOccupancy s.ring.transit) : clearDown s = s := by
  unfold clearDown
  exact if_neg (Nat.not_le.mpr h)

theorem clearDown_of_room {s : State} (h : transitOccupancy s.ring.transit ≤ 8192) :
    clearDown s = { s with seg := { s.seg with control := allowedControl s } } := by
  unfold clearDown
  exact if_pos h

theorem outboundFree_of_choose {s : State} {c : Choice} (h : choose (clearDown s) = c) :
    outboundFree s = sendChosen c (countDecision c (clearDown s)) := by
  subst h
  rfl

/-- Choice 1: above the insertion mark, the transit buffer goes first (R15). -/
theorem outboundFree_of_full {s : State} {e : TransitEntry} {rest : List TransitEntry}
    (h : 8192 < transitOccupancy s.ring.transit) (ht : s.ring.transit = e :: rest) :
    outboundFree s = { s with
      ease := countedEase s true 0,
      ring := { s.ring with
        transit := rest, began := s.time,
        outbound := some { queue := .transit, bytes := withCrc (departing s.time e) } } } := by
  have hc : choose (clearDown s) = .transit := by rw [clearDown_of_full h]; exact if_pos h
  rw [outboundFree_of_choose hc, countDecision_eq, clearDown_of_full h]
  simp [sendChosen, ht, startSending]

/-- Below the insertion mark, the choice by what may be inserted (R15, R16). -/
theorem choose_of_room {s : State} (h : transitOccupancy s.ring.transit ≤ 8192) : choose (clearDown s) =
    if s.ctl.state != .start && !(allowedControl s).isEmpty then .control
    else if s.ctl.state.inserts && !s.seg.lines.isEmpty && limiterAllows s.ease then .line
    else if !s.ring.transit.isEmpty then .transit
    else .idle := by
  rw [clearDown_of_room h]
  exact if_neg (Nat.not_lt.mpr h)

/-- Choice 2: an allowed control parcel (R15, R16). -/
theorem outboundFree_of_control {s : State} {p : ControlParcel} {rest : List ControlParcel}
    (h : transitOccupancy s.ring.transit ≤ 8192) (hs : s.ctl.state ≠ .start) (hq : allowedControl s = p :: rest) :
    outboundFree s =
      launchControl p { s with seg := { s.seg with control := rest }, ease := countedEase s false 0 } := by
  have hc : choose (clearDown s) = .control := by
    rw [choose_of_room h]
    simp [hq, hs]
  rw [outboundFree_of_choose hc, countDecision_eq, clearDown_of_room h]
  simp [sendChosen, hq, countedEase]

/-- Choice 3: a line that the limiter allows (R15, R140). -/
theorem outboundFree_of_line {s : State} {p : LineParcel} {rest : List LineParcel}
    (h : transitOccupancy s.ring.transit ≤ 8192) (hi : s.ctl.state.inserts = true) (hq : allowedControl s = [])
    (hl : s.seg.lines = p :: rest) (ha : limiterAllows s.ease = true) :
    outboundFree s = { s with
      ease := countedEase s false p.size, seg := { s.seg with control := allowedControl s, lines := rest },
      ring := { s.ring with
        began := s.time, outbound := some { queue := .line, bytes := withCrc (lineBytes p) } } } := by
  have hc : choose (clearDown s) = .line := by
    rw [choose_of_room h]
    simp [hq, hi, hl, ha]
  rw [outboundFree_of_choose hc, countDecision_eq, clearDown_of_room h]
  simp [sendChosen, hl, countedEase, startSending]

/-- Neither a control parcel nor a line is there to be inserted (R15, R16). -/
structure NothingToInsert (s : State) : Prop where
  room : transitOccupancy s.ring.transit ≤ 8192
  control : s.ctl.state = .start ∨ allowedControl s = []
  line : s.ctl.state.inserts = false ∨ s.seg.lines = [] ∨ limiterAllows s.ease = false

theorem NothingToInsert.choose {s : State} (h : NothingToInsert s) :
    choose (clearDown s) = if s.ring.transit = [] then .idle else .transit := by
  rw [choose_of_room h.room]
  have hcontrol : (s.ctl.state != .start && !(allowedControl s).isEmpty) = false := by
    rcases h.control with hs | hq <;> simp [*]
  have hline : (s.ctl.state.inserts && !s.seg.lines.isEmpty && limiterAllows s.ease) = false := by
    rcases h.line with hs | hl | ha <;> simp [*]
  rw [if_neg (by simpa using hcontrol), if_neg (by simpa using hline)]
  cases s.ring.transit <;> rfl

/-- Choice 4: with nothing to insert, a waiting transit parcel (R15). -/
theorem outboundFree_of_transit {s : State} {e : TransitEntry} {rest : List TransitEntry} (h : NothingToInsert s)
    (ht : s.ring.transit = e :: rest) :
    outboundFree s = { s with
      ease := countedEase s true 0, seg := { s.seg with control := allowedControl s },
      ring := { s.ring with
        transit := rest, began := s.time,
        outbound := some { queue := .transit, bytes := withCrc (departing s.time e) } } } := by
  have hc : choose (clearDown s) = .transit := by rw [h.choose, ht]; rfl
  rw [outboundFree_of_choose hc, countDecision_eq, clearDown_of_room h.room]
  simp [sendChosen, ht, countedEase, startSending]

/-- Choice 5: with nothing to send, idle characters (R15). -/
theorem outboundFree_of_idle {s : State} (h : NothingToInsert s) (ht : s.ring.transit = []) :
    outboundFree s = { s with ease := countedEase s false 0, seg := { s.seg with control := allowedControl s } } := by
  have hc : choose (clearDown s) = .idle := by rw [h.choose, ht]; rfl
  rw [outboundFree_of_choose hc, countDecision_eq, clearDown_of_room h.room]
  simp [sendChosen, countedEase]

theorem inserts_iff (c : StationState) : c.inserts = true ↔ c = .joining ∨ c = .running ∨ c = .ringOpen := by
  cases c <;> simp [StationState.inserts]

theorem inserts_eq_false_iff (c : StationState) : c.inserts = false ↔ c = .start ∨ c = .passOnly ∨ c = .duplicate := by
  cases c <;> simp [StationState.inserts]

/-! ### What the states allow, and what leaves -/

theorem controlAllowed_passOnly (b : ControlBody) :
    controlAllowed .passOnly b = true ↔ b = .status ∨ ∃ id f, b = .signon id f := by
  cases b <;> simp [controlAllowed]

theorem controlAllowed_duplicate (b : ControlBody) : controlAllowed .duplicate b = true ↔ b = .status := by
  cases b <;> simp [controlAllowed]

theorem departing_of_beacon {now : Time} {e : TransitEntry} (h : kindField e.content = some .beacon) :
    departing now e = addAge e.content (now - e.arrival).toNat := if_pos h

/-- Settles O28: the five choices, each by its own lemma. -/
theorem schedulerChoosesInOrder : Obligations.SchedulerChoosesInOrder := by
  refine ⟨fun now e => ⟨fun h => if_neg h, fun h hlen => ?_⟩,
    fun b => ⟨controlAllowed_passOnly b, controlAllowed_duplicate b, rfl, rfl, rfl, rfl⟩, fun q => rfl, limiterAllows_iff,
    fun s kept counted hkept hcounted => ?_⟩
  · rw [departing_of_beacon h]
    exact ⟨addAge_length hlen _, ageField_addAge hlen _, fun i hi => byteAt_addAge hlen _ i hi⟩
  · have hkept : kept = allowedControl s := hkept
    obtain rfl : counted = countedEase s := funext fun lost => funext fun n => hcounted lost n
    subst hkept
    refine ⟨fun e rest hfull ht => outboundFree_of_full hfull ht, fun hroom =>
      ⟨fun p rest hs hq => outboundFree_of_control hroom hs hq, fun hcontrol => ⟨fun p rest hi hl ha => ?_, fun hline => ?_⟩⟩⟩
    · rw [← inserts_iff] at hi
      have hs : s.ctl.state ≠ .start := fun hs => by simp [hs, StationState.inserts] at hi
      exact outboundFree_of_line hroom hi (hcontrol.resolve_left hs) hl ha
    · have hnothing : NothingToInsert s := ⟨hroom, hcontrol, by rw [inserts_eq_false_iff]; tauto⟩
      exact ⟨fun e rest ht => outboundFree_of_transit hnothing ht, fun ht => outboundFree_of_idle hnothing ht⟩

/-! ### When the port comes free (R13, R14) -/

/-- At a completion of sending, an alignment run that is due begins, or the scheduler chooses (R14). -/
theorem freeAfterSending_eq (s : State) [Decidable (∀ e, s.ring.lastRunEnd = some e → 1000 ≤ (s.time - e).toNat)] :
    freeAfterSending s =
      if (∀ e, s.ring.lastRunEnd = some e → 1000 ≤ (s.time - e).toNat) then startRun s else outboundFree s := by
  unfold freeAfterSending
  exact if_congr (runDue_iff s) rfl rfl

theorem exec_sendCompletion {s : State} {p : OutParcel} (h : s.ring.outbound = some p) :
    exec .sendCompletion s = .next (if maySent s (charsToSend p) then
      freeAfterSending { s with ring := { s.ring with outbound := none, idleUnits := 0 } } else s) := by
  show Host.Outcome.next (match s.ring.outbound with | none => s | some p => _) = _
  rw [h]

theorem freeWhileIdle_of_busy {s : State} (h : PortBusy s) : freeWhileIdle s = s := by
  unfold freeWhileIdle
  exact if_pos (by simpa [PortBusy] using h)

/-- An idle run of two units or more has reached 64 characters, and counts as ending now (R14). -/
theorem freeWhileIdle_of_long {s : State} (h : ¬ PortBusy s) (hl : 2 ≤ s.ring.idleUnits) :
    freeWhileIdle s = outboundFree { s with ring := { s.ring with lastRunEnd := some s.time } } := by
  unfold freeWhileIdle
  rw [if_neg (by simpa [PortBusy] using h)]
  simp [hl]

/-- Whether a young idle run has reached 64 characters is free (log 5). -/
theorem freeWhileIdle_of_young {s : State} [Decidable (∀ e, s.ring.lastRunEnd = some e → 1000 ≤ (s.time - e).toNat)]
    (h : ¬ PortBusy s) (hl : s.ring.idleUnits < 2) :
    freeWhileIdle s =
      if Config.idleRunReached s.freeCount then
        outboundFree { s with freeCount := s.freeCount + 1, ring := { s.ring with lastRunEnd := some s.time } }
      else if (∀ e, s.ring.lastRunEnd = some e → 1000 ≤ (s.time - e).toNat) then
        { s with freeCount := s.freeCount + 1, ring := { s.ring with aligning := true, began := s.time } }
      else outboundFree { s with freeCount := s.freeCount + 1 } := by
  unfold freeWhileIdle
  rw [if_neg (by simpa [PortBusy] using h)]
  cases Config.idleRunReached s.freeCount with
  | true => simp [Nat.not_le.mpr hl, State.bump]
  | false =>
    simp only [Nat.not_le.mpr hl, decide_false, Bool.false_or, Bool.not_false, Bool.and_true, Bool.false_eq_true, if_false]
    exact if_congr (runDue_iff s) rfl rfl

/-- Settles O30, by whether the port is busy and how long its idle run has lasted. -/
theorem portComesFree : Obligations.PortComesFree := by
  refine ⟨fun p s hp => ⟨fun hearly => ?_, fun hsent => ?_⟩, fun s hn => ?_, fun s => rfl,
    fun s => ⟨freeWhileIdle_of_busy, freeWhileIdle_of_long, fun hb hl => ⟨_, freeWhileIdle_of_young hb hl⟩⟩⟩
  · rw [exec_sendCompletion hp, if_neg]
    rw [maySent_iff]
    exact Nat.not_le.mpr hearly
  · have hmay : maySent s (charsToSend p) = true := (maySent_iff _ _).mpr hsent
    rw [exec_sendCompletion hp, if_pos hmay, freeAfterSending_eq]
    rfl
  · show Host.Outcome.next (match s.ring.outbound with | none => s | some p => _) = _
    rw [hn]

end Sys2Proof.FibreRing
end

section
/-! The layout of every parcel sent (Section 12): where each field stands, and what a receiver reads there. -/
namespace Sys2Proof.FibreRing
open Sys2Proof.Machine Sys2Proof.Safety

/-! ### Reading past what stands before a field -/

theorem headerOf_length (k : Kind) (hops : Nat) (h : OwnHeader) (n : Nat) : (headerOf k hops h n).length = 7 := by
  simp [headerOf, toBytes_length]

theorem field_append {a b : List Byte} {m i : Nat} (ha : a.length = m) (h : m ≤ i) (n w : Nat) :
    field (a ++ b) i n w = field b (i - m) n w := by
  subst ha
  rw [field, field, List.drop_append, List.drop_of_length_le h, List.nil_append]

theorem field_after_header {k : Kind} {hops m i : Nat} {h : OwnHeader} (b : List Byte) (hi : 7 ≤ i) (n w : Nat) :
    field (headerOf k hops h m ++ b) i n w = field b (i - 7) n w := field_append (headerOf_length _ _ _ _) hi n w

theorem field_after_bytes {m v i : Nat} (b : List Byte) (hi : m ≤ i) (n w : Nat) :
    field (toBytes m v ++ b) i n w = field b (i - m) n w := field_append (toBytes_length m v) hi n w

theorem field_after_byte {c : Byte} {i : Nat} (b : List Byte) (hi : 1 ≤ i) (n w : Nat) :
    field (c :: b) i n w = field b (i - 1) n w := field_append (a := [c]) rfl hi n w

/-- A number read where its low bytes were put. -/
theorem field_here_nat {w n : Nat} (v : Nat) (b : List Byte) (h : w = 8 * n) :
    field (toBytes n v ++ b) 0 n w = BitVec.ofNat w v := by
  have hread : field (toBytes n v ++ b) 0 n w = _ := field_toBytes (a := []) n w v b rfl
  have hpow : 256 ^ n = 2 ^ w := by rw [h, Nat.pow_mul]
  rw [hread, hpow]
  apply BitVec.eq_of_toNat_eq
  simp

/-- A field of whole bytes, read where it was put. -/
theorem field_here {w n : Nat} (x : BitVec w) (b : List Byte) (h : w = 8 * n) : field (toBytes n x.toNat ++ b) 0 n w = x := by
  rw [field_here_nat _ _ h, BitVec.ofNat_toNat, BitVec.setWidth_eq]

theorem byteAt_after_header {k : Kind} {hops m i : Nat} {h : OwnHeader} (b : List Byte) (hi : 7 ≤ i) :
    byteAt (headerOf k hops h m ++ b) i = byteAt b (i - 7) := by
  rw [byteAt_append_right (by rw [headerOf_length]; exact hi), headerOf_length]

theorem byteAt_after_bytes {m v i : Nat} (b : List Byte) (hi : m ≤ i) : byteAt (toBytes m v ++ b) i = byteAt b (i - m) := by
  rw [byteAt_append_right (by rw [toBytes_length]; exact hi), toBytes_length]

theorem byteAt_after_byte {c : Byte} {i : Nat} (b : List Byte) (hi : 1 ≤ i) : byteAt (c :: b) i = byteAt b (i - 1) :=
  byteAt_append_right (a := [c]) hi

theorem byteAt_here (c : Byte) (b : List Byte) : byteAt (c :: b) 0 = c := rfl

/-- A body of fixed size has the size of its kind (R180). -/
theorem padTo_length {n : Nat} {l : List Byte} (h : l.length ≤ n) : (padTo n l).length = n := by
  simp [padTo]
  omega

/-! ### The common header and the CRC -/

theorem kindField_iff (p : List Byte) (k : Kind) : kindField p = some k ↔ byteAt p 0 = k.code := by
  unfold kindField kindOf
  cases k <;> simp only [Kind.code] <;> grind

/-- The source that a receiver reads in an own header (Table 12.1). -/
theorem sourceField_of_hasHeader {h : OwnHeader} {code : Byte} {n : Nat} {p : List Byte} (hp : HasHeader h code n p) :
    sourceField p = h.source := by
  obtain ⟨-, -, hbyte, -⟩ := hp
  have hs := h.source.isLt
  apply Fin.ext
  simp only [sourceField, hbyte, Fin.ofNat]
  omega

/-- A bit enters the CRC register (R180). -/
def crcStep (r : Word32) (b : Bool) : Word32 := (r <<< 1) ^^^ (if r.msb = b then 0 else 0x04C11DB7)

/-- The CRC register after some bits, the first bit first (R180). -/
def crcRegister (bits : List Bool) : Word32 := bits.foldl crcStep 0xFFFFFFFF

theorem crcRegister_append (l : List Bool) (b : Bool) : crcRegister (l ++ [b]) = crcStep (crcRegister l) b :=
  List.foldl_append ..

/-- The bits of a byte, the most significant first. -/
def bitsOf (c : Byte) : List Bool := (List.range 8).map (fun j => c.getLsbD (7 - j))

theorem crcByte_eq_foldl (r : Word32) (c : Byte) : crcByte r c = (bitsOf c).foldl crcStep r := by
  have hstep : ∀ (r : Word32) (b : Bool), (r <<< 1) ^^^ (if r.msb != b then 0x04C11DB7#32 else 0) = crcStep r b := by
    intro r b
    unfold crcStep
    cases r.msb <;> cases b <;> rfl
  rw [crcByte_eq_bits]
  simp only [hstep]
  rfl

/-- The CRC-32 is the register after every bit, inverted (R180). -/
theorem crc32_eq (p : List Byte) : crc32 p = ~~~ crcRegister (p.flatMap bitsOf) := by
  have hfold : ∀ (l : List Byte) (r : Word32), l.foldl crcByte r = (l.flatMap bitsOf).foldl crcStep r := by
    intro l
    induction l with
    | nil => exact fun _ => rfl
    | cons c l ih => exact fun r => by rw [List.foldl_cons, List.flatMap_cons, List.foldl_append, ih, crcByte_eq_foldl]
  rw [crc32, hfold]
  rfl

theorem withCrc_length (p : List Byte) : (withCrc p).length = p.length + 4 := by
  simp [withCrc, toBytes_length]

theorem field_withCrc (p : List Byte) : field (withCrc p) p.length 4 32 = crc32 p := by
  have hcrc := field_here (n := 4) (crc32 p) [] rfl
  rw [List.append_nil] at hcrc
  rw [withCrc, field_append rfl le_rfl, Nat.sub_self, hcrc]

/-! ### The bodies of the control parcels (Table 12.3) -/

theorem beaconBytes_layout (h : OwnHeader) (x seam : Coord) (v : Speed) (age : BitVec 24) (seq coil : Word16) (p : List Byte)
    (hp : p = beaconBytes h x v age seq coil seam) :
    HasHeader h 2 53 p ∧ field p 7 6 48 = x ∧ field p 13 3 24 = v ∧ field p 16 3 24 = age ∧ field p 19 2 16 = seq
      ∧ field p 21 2 16 = coil ∧ field p 23 6 48 = seam ∧ ∀ i, 29 ≤ i → byteAt p i = 0 := by
  subst hp
  refine ⟨headerOf_hasHeader .beacon h 53 _ (padTo_length (by simp [toBytes_length])) (by decide), ?_, ?_, ?_, ?_, ?_, ?_,
    fun i hi => byteAt_padTo _ _ _ _ (by simpa [toBytes_length, headerOf_length] using hi)⟩
  all_goals
    simp (disch := decide) only [beaconBytes, padTo, List.append_assoc, Nat.reduceSub, field_after_header, field_after_bytes,
      field_here]

theorem markBytes_layout (h : OwnHeader) (x : Coord) (coil : Word16) (p : List Byte) (hp : p = markBytes h x coil) :
    HasHeader h 3 53 p ∧ field p 7 6 48 = x ∧ field p 13 2 16 = coil ∧ ∀ i, 15 ≤ i → byteAt p i = 0 := by
  subst hp
  refine ⟨headerOf_hasHeader .mark h 53 _ (padTo_length (by simp [toBytes_length])) (by decide), ?_, ?_,
    fun i hi => byteAt_padTo _ _ _ _ (by simpa [toBytes_length, headerOf_length] using hi)⟩
  all_goals
    simp (disch := decide) only [markBytes, padTo, List.append_assoc, Nat.reduceSub, field_after_header, field_after_bytes,
      field_here]

theorem easeBytes_layout (h : OwnHeader) (share : Word16) (p : List Byte) (hp : p = easeBytes h share) :
    HasHeader h 4 53 p ∧ field p 7 2 16 = share ∧ ∀ i, 9 ≤ i → byteAt p i = 0 := by
  subst hp
  refine ⟨headerOf_hasHeader .ease h 53 _ (padTo_length (by simp [toBytes_length])) (by decide), ?_,
    fun i hi => byteAt_padTo _ _ _ _ (by simpa [toBytes_length, headerOf_length] using hi)⟩
  simp (disch := decide) only [easeBytes, padTo, Nat.reduceSub, field_after_header, field_here]

/-- The mask and flags bytes of a SIGNON, and the functions that a receiver reads in them. -/
theorem functionFlags_toNat (f : Functions) :
    (functionFlags f).toNat = f.encoder.toNat + 2 * f.seamInput.toNat + 4 * f.takeOff.toNat := by
  have hencoder := f.encoder.toNat_lt
  have hseam := f.seamInput.toNat_lt
  have htake := f.takeOff.toNat_lt
  rw [functionFlags, BitVec.toNat_ofNat]
  omega

theorem bit_eq_of_toNat {w : Nat} {x : BitVec w} {i : Nat} {b : Bool} (h : x.toNat / 2 ^ i % 2 = b.toNat) : bit x i = b := by
  rw [bit, BitVec.getLsbD, Nat.testBit_eq_decide_div_mod_eq, h]
  cases b <;> rfl

theorem functionsField_eq {p : List Byte} {f : Functions} (hmask : byteAt p 11 = f.cameras.setWidth 8)
    (hflags : byteAt p 12 = functionFlags f) : functionsField p = f := by
  have hcameras : (f.cameras.setWidth 8).setWidth 4 = f.cameras := BitVec.setWidth_setWidth_of_le f.cameras (by decide)
  have hnat := functionFlags_toNat f
  have hencoder := f.encoder.toNat_lt
  have hseam := f.seamInput.toNat_lt
  have htake := f.takeOff.toNat_lt
  simp only [functionsField, hmask, hflags, hcameras]
  rw [bit_eq_of_toNat (i := 0) (b := f.encoder) (by omega), bit_eq_of_toNat (i := 1) (b := f.seamInput) (by omega),
    bit_eq_of_toNat (i := 2) (b := f.takeOff) (by omega)]

theorem signonBytes_layout (h : OwnHeader) (id : Word32) (f : Functions) (p : List Byte) (hp : p = signonBytes h id f) :
    HasHeader h 6 53 p ∧ field p 7 4 32 = id ∧ byteAt p 11 = f.cameras.setWidth 8 ∧ byteAt p 12 = functionFlags f
      ∧ ∀ i, 13 ≤ i → byteAt p i = 0 := by
  subst hp
  refine ⟨headerOf_hasHeader .signon h 53 _ (padTo_length (by simp [toBytes_length])) (by decide), ?_, ?_, ?_,
    fun i hi => byteAt_padTo _ _ _ _ (by simpa [toBytes_length, headerOf_length] using hi)⟩
  all_goals
    simp (disch := decide) only [signonBytes, padTo, List.append_assoc, Nat.reduceSub, List.cons_append, List.nil_append,
      field_after_header, field_here, byteAt_after_header, byteAt_after_bytes, byteAt_after_byte, byteAt_here]

theorem statusBytes_layout (h : OwnHeader) (c : StatusContents) (p : List Byte) (hp : p = statusBytes h c) :
    HasHeader h 5 117 p ∧ field p 7 4 32 = c.identity ∧ field p 11 2 16 = c.sequence
      ∧ byteAt p 13 = c.stationState ∧ byteAt p 14 = c.clockState ∧ byteAt p 15 = c.followed ∧ field p 16 2 16 = c.portStates
      ∧ byteAt p 18 = c.queueFill ∧ byteAt p 19 = c.easeOriginating ∧ field p 20 2 16 = c.crcFaults
      ∧ field p 22 2 16 = c.linesRefused ∧ field p 24 2 16 = c.linesMissing ∧ field p 26 2 16 = c.brokenLines
      ∧ ∀ i, 28 ≤ i → byteAt p i = 0 := by
  subst hp
  refine ⟨headerOf_hasHeader .status h 117 _ (padTo_length (by simp [toBytes_length])) (by decide), ?_, ?_, ?_, ?_, ?_, ?_, ?_,
    ?_, ?_, ?_, ?_, ?_, fun i hi => byteAt_padTo _ _ _ _ (by simpa [toBytes_length, headerOf_length] using hi)⟩
  all_goals
    simp (disch := decide) only [statusBytes, padTo, List.append_assoc, Nat.reduceSub, List.cons_append, List.nil_append,
      field_after_header, field_after_bytes, field_after_byte, field_here, byteAt_after_header, byteAt_after_bytes,
      byteAt_after_byte, byteAt_here]

/-! ### The LINE (Table 12.2) -/

theorem lineBytes_layout (q : LineParcel) (p : List Byte) (hq : q.payload.length ≤ 2048) (hp : p = lineBytes q) :
    HasHeader q.header 1 (21 + q.payload.length) p ∧ byteAt p 7 = BitVec.ofNat 8 q.camera.val ∧ field p 8 4 32 = q.serial
      ∧ byteAt p 12 = BitVec.ofNat 8 q.segIndex ∧ byteAt p 13 = BitVec.ofNat 8 q.segCount ∧ field p 14 2 16 = q.coil
      ∧ field p 16 4 32 = q.nominal ∧ field p 20 2 16 = q.flags ∧ byteAt p 22 = BitVec.ofNat 8 q.depth
      ∧ field p 23 2 16 = BitVec.ofNat 16 q.segPixels ∧ field p 25 2 16 = q.clips ∧ byteAt p 27 = q.thinnedSince
      ∧ p.drop 28 = q.payload := by
  subst hp
  refine ⟨?_, ?_, ?_, ?_, ?_, ?_, ?_, ?_, ?_, ?_, ?_, ?_, List.drop_left' (by simp [headerOf_length, toBytes_length])⟩
  case refine_1 =>
    have hheader := fun b => headerOf_hasHeader .line q.header (21 + q.payload.length) b
    simp only [lineBytes, List.append_assoc]
    refine hheader _ ?_ (by omega)
    simp [toBytes_length]
    omega
  all_goals
    simp (disch := decide) only [lineBytes, List.append_assoc, List.cons_append, List.nil_append, Nat.reduceSub,
      field_after_header, field_after_bytes, field_after_byte, field_here_nat, BitVec.ofNat_toNat, BitVec.setWidth_eq,
      byteAt_after_header, byteAt_after_bytes, byteAt_after_byte, byteAt_here]

end Sys2Proof.FibreRing
end

section
/-! The contents of a STATUS (R32), and what a control parcel does at its launch (O29). -/
namespace Sys2Proof.FibreRing
open Sys2Proof.Machine Sys2Proof.Safety

/-! ### The contents of a STATUS (Table 2.4) -/

theorem stationCode_lt (c : StationState) : c.code < 6 := by cases c <;> decide

theorem clockCode_lt (c : ClockState) : c.code < 5 := by cases c <;> decide

theorem portCode_lt (c : PortState) : c.code < 5 := by cases c <;> decide

theorem ofNat8_toNat {n : Nat} (h : n < 256) : (BitVec.ofNat 8 n).toNat = n := by
  rw [BitVec.toNat_ofNat]
  exact Nat.mod_eq_of_lt h

/-- The followed source that a STATUS carries: a station, or 255 for none. -/
theorem followed_of_reported {s : State} {h : OwnHeader} {n : Station} (hr : reportedSource s.strip = some n) :
    (ownStatus s h).followed.toNat = n.val := by
  have hn := n.isLt
  simp only [ownStatus, hr]
  exact ofNat8_toNat (by omega)

theorem followed_of_none {s : State} {h : OwnHeader} (hr : reportedSource s.strip = none) :
    (ownStatus s h).followed = 0xFF := by
  simp only [ownStatus, hr]

theorem reportedSource_of_following {u : StripUnit} (h : u.clock = .following ∨ u.clock = .coasting) :
    reportedSource u = u.followed := by
  unfold reportedSource
  rcases h with h | h <;> rw [h]

theorem reportedSource_of_held {u : StripUnit} {n : Station} (h : u.clock = .held) (hs : u.source = .station n) :
    reportedSource u = some n := by
  unfold reportedSource
  rw [h]
  simp only [hs]

theorem reportedSource_of_none {u : StripUnit}
    (h : u.clock = .loc ∨ u.clock = .none ∨ (u.clock = .held ∧ ∀ n, u.source ≠ .station n)) : reportedSource u = none := by
  unfold reportedSource
  rcases h with h | h | ⟨h, hs⟩
  · rw [h]
  · rw [h]
  · rw [h]
    cases he : u.source with
    | none | loc => rfl
    | station n => exact absurd he (hs n)

/-- Camera `i`'s port state in bits 4i+3 to 4i (Table 12.3). -/
theorem portStatesField_get (v : Vector Camera 4) (i : Cam) :
    ((portStatesField v).extractLsb' (4 * i.val) 4).toNat = v[i].port.state.code := by
  have h0 := portCode_lt v[0].port.state
  have h1 := portCode_lt v[1].port.state
  have h2 := portCode_lt v[2].port.state
  have h3 := portCode_lt v[3].port.state
  rw [BitVec.extractLsb'_toNat, portStatesField, BitVec.toNat_ofNat, Nat.shiftRight_eq_div_pow]
  match i with
  | 0 => show _ / 1 % 16 = v[0].port.state.code; omega
  | 1 => show _ / 16 % 16 = v[1].port.state.code; omega
  | 2 => show _ / 256 % 16 = v[2].port.state.code; omega
  | 3 => show _ / 4096 % 16 = v[3].port.state.code; omega

theorem queueFill_toNat {s : State} (h : LinesWithin s) :
    (BitVec.ofNat 8 (queueFill s)).toNat = lineOccupancy s.seg.lines * 100 / 262144 := by
  refine ofNat8_toNat ?_
  unfold LinesWithin Config.lineCapacity at h
  unfold queueFill Config.lineCapacity
  omega

theorem low16_toNat (c : Word32) : (low16 c).toNat = c.toNat % 65536 := BitVec.toNat_setWidth ..

/-! ### The launch of a STATUS (R27, R31, R37) -/

theorem enterOpen_eq (s : State) : enterOpen s = { s with ctl := { s.ctl with
    state := if s.ctl.state = .joining ∨ s.ctl.state = .running then .ringOpen else s.ctl.state,
    signonTimer := if s.ctl.state = .joining ∨ s.ctl.state = .running then none else s.ctl.signonTimer } } := by
  unfold enterOpen
  obtain ⟨_, _, _, _, ctl, _⟩ := s
  obtain ⟨_, _, _, state, _⟩ := ctl
  cases state <;> rfl

/-- The own roll entry after a launch (R37). -/
def ownEntryAfter (s : State) (c : StatusContents) (e : RollEntry) : RollEntry :=
  { e with
    condition := if e.condition = .clash then .clash else .present,
    identity := some c.identity, lastSequence := some c.sequence, receipt := s.time, missed := 0,
    functions := some (ownFunctions s), contents := some c }

theorem writeOwnEntry_eq (c : StatusContents) (s : State) : writeOwnEntry c s = { s with ctl := { s.ctl with
    roll := put s.ctl.roll s.ctl.number (ownEntryAfter s c s.ctl.roll[s.ctl.number]) } } := by
  unfold writeOwnEntry ownEntryAfter
  generalize s.ctl.roll[s.ctl.number] = e
  obtain ⟨condition, _⟩ := e
  cases condition <;> rfl

/-- The state as a STATUS begins to be sent, its sequence taken (R31). -/
def statusSent (h : OwnHeader) (s : State) : State :=
  { s with
    ring := { s.ring with
      began := s.time, outbound := some { queue := .control, bytes := withCrc (statusBytes h (ownStatus s h)) } },
    ctl := { s.ctl with sequence := s.ctl.sequence + 1 } }

theorem launchStatus_eq (h : OwnHeader) (s : State) :
    launchStatus h s = writeOwnEntry (ownStatus s h) (watchReturn s.ctl.sequence (statusSent h s)) := rfl

theorem watchReturn_of_room {q : Word16} {s : State} (h : s.ctl.pendingReturn.length < 4) :
    watchReturn q s = { s with ctl := { s.ctl with
      pendingReturn := s.ctl.pendingReturn ++ [{ sequence := q, launch := s.time }] } } := by
  unfold watchReturn
  exact if_pos h

/-- A fifth record makes the oldest overdue first (R27). -/
theorem watchReturn_of_full {q : Word16} {s : State} (h : 4 ≤ s.ctl.pendingReturn.length) :
    watchReturn q s = enterOpen { s with ctl := { s.ctl with
      pendingReturn := s.ctl.pendingReturn.drop 1 ++ [{ sequence := q, launch := s.time }] } } := by
  unfold watchReturn
  exact if_neg (Nat.not_lt.mpr h)

theorem launchStatus_of_room {h : OwnHeader} {s : State} (hr : s.ctl.pendingReturn.length < 4) :
    launchStatus h s = { statusSent h s with ctl := { s.ctl with
      sequence := s.ctl.sequence + 1,
      pendingReturn := s.ctl.pendingReturn ++ [{ sequence := s.ctl.sequence, launch := s.time }],
      roll := put s.ctl.roll s.ctl.number (ownEntryAfter s (ownStatus s h) s.ctl.roll[s.ctl.number]) } } := by
  rw [launchStatus_eq, watchReturn_of_room, writeOwnEntry_eq]
  · rfl
  · exact hr

theorem launchStatus_of_full {h : OwnHeader} {s : State} (hf : 4 ≤ s.ctl.pendingReturn.length) :
    launchStatus h s = { statusSent h s with ctl := { s.ctl with
      sequence := s.ctl.sequence + 1,
      pendingReturn := s.ctl.pendingReturn.drop 1 ++ [{ sequence := s.ctl.sequence, launch := s.time }],
      state := if s.ctl.state = .joining ∨ s.ctl.state = .running then .ringOpen else s.ctl.state,
      signonTimer := if s.ctl.state = .joining ∨ s.ctl.state = .running then none else s.ctl.signonTimer,
      roll := put s.ctl.roll s.ctl.number (ownEntryAfter s (ownStatus s h) s.ctl.roll[s.ctl.number]) } } := by
  rw [launchStatus_eq, watchReturn_of_full, enterOpen_eq, writeOwnEntry_eq]
  · rfl
  · exact hf

/-- A receiver reads in a STATUS the contents that its sender put there. -/
theorem statusField_statusBytes {h : OwnHeader} {c : StatusContents} {p : List Byte} (hsource : c.source = h.source)
    (hkey : c.originKey = h.key) (hp : p = statusBytes h c) : statusField p = c := by
  obtain ⟨header, hid, hseq, hstation, hclock, hfollowed, hports, hfill, hease, hcrc, hrefused, hmissing, hbroken, -⟩ :=
    statusBytes_layout h c p hp
  have hsourceField : sourceField p = c.source := (sourceField_of_hasHeader header).trans hsource.symm
  have hkeyField : keyField p = c.originKey := by
    obtain ⟨-, -, -, hk, -⟩ := header
    exact hk.trans hkey.symm
  simp only [statusField, identityField, hsourceField, hkeyField, hid, hseq, hstation, hclock, hfollowed, hports, hfill, hease,
    hcrc, hrefused, hmissing, hbroken]

/-! ### The launch of a BEACON (R52) -/

/-- A BEACON leaves with the time since its sample as its age, saturating (R52). -/
theorem launchControl_beacon (h : OwnHeader) (x : Coord) (v : Speed) (seq coil : Word16) (seam : Coord) (sample : Time)
    (s : State) :
    launchControl { header := h, body := .beacon x v seq coil seam sample } s = { s with ring := { s.ring with
      began := s.time,
      outbound := some {
        queue := .control,
        bytes := withCrc (beaconBytes h x v (BitVec.ofNat 24 (min (s.time - sample).toNat 16777215)) seq coil seam) } } } := by
  have hage : satAdd (0 : BitVec 24) (unitsSince s.time sample) = BitVec.ofNat 24 (min (s.time - sample).toNat 16777215) := by
    rw [satAdd, show (0 : BitVec 24).toNat = 0 from rfl, Nat.zero_add]
    rfl
  rw [← hage]
  rfl

/-- Settles O29: the contents of a STATUS, the layouts, and the launches. -/
theorem controlParcelLaunches : Obligations.ControlParcelLaunches := by
  refine ⟨?contents, ⟨rfl, rfl, rfl⟩, fun p i n w => ⟨field_zero p i w, field_succ p i n w⟩,
    ⟨crcRegister, rfl, crcRegister_append, crc32_eq⟩,
    fun p => ⟨kindField_iff p .line, kindField_iff p .beacon, kindField_iff p .mark, kindField_iff p .ease,
      kindField_iff p .status, kindField_iff p .signon, rfl, rfl, rfl, rfl⟩,
    fun p => ⟨List.take_left' rfl, withCrc_length p, field_withCrc p⟩, ?beacon, ?mark, ?ease, ?signon, ?status, ?line, ?segment,
    fun h s => ⟨fun _ _ => rfl, fun _ _ => rfl, fun _ => rfl, ?age, ?launch⟩⟩
  case contents =>
    rintro s h c rfl
    refine ⟨rfl, rfl, fun id hid => ?_, rfl, ofNat8_toNat ((stationCode_lt _).trans (by decide)),
      ofNat8_toNat ((clockCode_lt _).trans (by decide)), fun n hc hn => ?_,
      fun n hc hs => followed_of_reported (reportedSource_of_held hc hs), fun hc => followed_of_none (reportedSource_of_none hc),
      portStatesField_get s.cams, queueFill_toNat, rfl, low16_toNat _, sumLow16_toNat _ _, sumLow16_toNat _ _, low16_toNat _⟩
    · simp [ownStatus, hid]
    · exact followed_of_reported ((reportedSource_of_following hc).trans hn)
  case beacon =>
    intro h x seam v age seq coil p hp
    obtain ⟨header, hx, hv, hage, hseq, hcoil, hseam, hzero⟩ := beaconBytes_layout h x seam v age seq coil p hp
    exact ⟨header, rfl, hx, rfl, hv, rfl, hage, rfl, hseq, rfl, hcoil, rfl, hseam, hzero⟩
  case mark =>
    intro h x coil p hp
    obtain ⟨header, hx, hcoil, hzero⟩ := markBytes_layout h x coil p hp
    exact ⟨header, rfl, hx, rfl, hcoil, hzero⟩
  case ease =>
    intro h share p hp
    obtain ⟨header, hshare, hzero⟩ := easeBytes_layout h share p hp
    exact ⟨header, rfl, hshare, hzero⟩
  case signon =>
    intro h id f p hp
    obtain ⟨header, hid, hmask, hflags, hzero⟩ := signonBytes_layout h id f p hp
    refine ⟨header, rfl, hid, functionsField_eq hmask hflags, ?_, ?_, hzero⟩
    · rw [hmask, BitVec.toNat_setWidth]
      have hlt := f.cameras.isLt
      omega
    · rw [hflags, functionFlags_toNat]
  case status =>
    intro h c p hsource hkey hp
    obtain ⟨header, hid, hseq, hstation, hclock, hfollowed, hports, hfill, hease, hcrc, hrefused, hmissing, hbroken, hzero⟩ :=
      statusBytes_layout h c p hp
    have hcontents := statusField_statusBytes hsource hkey hp
    exact ⟨header, hcontents, hid, hseq, hstation, hclock, hfollowed, hports, hfill, hease, hcrc, hrefused, hmissing, hbroken,
      hzero⟩
  case line =>
    intro q p hq hp
    obtain ⟨header, hcamera, hrest⟩ := lineBytes_layout q p hq hp
    refine ⟨header, ?_, hrest⟩
    rw [hcamera]
    exact ofNat8_toNat (q.camera.isLt.trans (by decide))
  case segment =>
    rintro p g rfl
    refine ⟨rfl, rfl, rfl, rfl, rfl, rfl, rfl, ?_, rfl, rfl, rfl, rfl, rfl⟩
    show (field p 20 2 16 &&& 0x00FF#16).toNat = _
    rw [BitVec.toNat_and]
    exact Nat.and_two_pow_sub_one_eq_mod _ 8
  case age =>
    intro x v seq coil seam sample
    exact launchControl_beacon h x v seq coil seam sample s
  case launch =>
    rintro c e r rfl rfl rfl
    refine ⟨launchStatus h s, rfl, ?_⟩
    rcases Nat.lt_or_ge s.ctl.pendingReturn.length 4 with hroom | hfull
    · rw [launchStatus_of_room hroom]
      exact ⟨rfl, rfl, rfl, rfl, rfl, fun _ => rfl, fun hfull => absurd hroom (Nat.not_lt.mpr hfull)⟩
    · rw [launchStatus_of_full hfull]
      exact ⟨rfl, rfl, rfl, rfl, rfl, fun hroom => absurd hroom (Nat.not_lt.mpr hfull), fun _ => rfl⟩

end Sys2Proof.FibreRing
end

section
/-! Station control: the state after a power-on reset (O4), the expiries of the roll and of the return watch (O35), the timers
and their requests, and what the held settings enable (O34). -/
namespace Sys2Proof.StationRoll
open Sys2Proof.Machine Sys2Proof.Safety Sys2Proof.FibreRing

/-- Settles O4: station control takes its reset values. -/
theorem powerOnResetOfStationControl : Obligations.PowerOnResetOfStationControl := by
  intro straps a b s
  have hroll (n : Station) : (StationControl.reset straps).roll[n] = .blank := replicate_get _ n
  exact ⟨_, rfl, rfl, rfl, rfl, rfl, rfl, rfl, rfl, rfl, hroll, rfl, rfl, rfl⟩

/-! ### Expiries of the roll and of the return watch (R27, R35, R38) -/

theorem exec_returnWatchExpiry_of_none {s : State} (h : s.ctl.pendingReturn = []) :
    exec .returnWatchExpiry s = .next s := by
  show Host.Outcome.next (if returnWatchDue s = true then _ else _) = _
  rw [returnWatchDue, h]
  rfl

/-- The oldest record is overdue 30 ms after its launch, and a JOINING or RUNNING station enters OPEN (R27). -/
theorem exec_returnWatchExpiry_of_cons {s : State} {r : ReturnRecord} {rest : List ReturnRecord}
    (h : s.ctl.pendingReturn = r :: rest) :
    exec .returnWatchExpiry s = .next (if 300000 ≤ (s.time - r.launch).toNat then
      enterOpen { s with ctl := { s.ctl with pendingReturn := rest } } else s) := by
  have hdue : returnWatchDue s = true ↔ 300000 ≤ (s.time - r.launch).toNat := by
    rw [returnWatchDue, h]
    exact reached_iff _ _ _
  show Host.Outcome.next (if returnWatchDue s = true then _ else _) = _
  simp only [hdue, h, List.drop_one, List.tail_cons]

/-- Settles O35, by the pending-return list and the condition of the entry. -/
theorem rollAndReturnExpiries : Obligations.RollAndReturnExpiries := by
  intro s
  refine ⟨exec_returnWatchExpiry_of_none, fun r rest h => ?_, ?_⟩
  · rw [exec_returnWatchExpiry_of_cons h, enterOpen_eq]
  · rintro n e rfl
    exact ⟨congrArg _ (if_congr (clashDue_iff s n) rfl rfl), congrArg _ (if_congr (silenceDue_iff s n) rfl rfl)⟩

/-! ### What the held settings enable (R41, R70, R85, R145) -/

/-- Bit `i` of a mask of four flags is flag `i`. -/
theorem mask_getLsbD (b : Cam → Bool) (i : Cam) :
    (BitVec.ofNat 4 ((b 0).toNat + 2 * (b 1).toNat + 4 * (b 2).toNat + 8 * (b 3).toNat)).getLsbD i.val = b i := by
  have hbits : ∀ (w x y z : Bool) (j : Cam),
      (BitVec.ofNat 4 (w.toNat + 2 * x.toNat + 4 * y.toNat + 8 * z.toNat)).getLsbD j.val = (#v[w, x, y, z])[j] := by decide
  rw [hbits, cams_get b]

theorem camSettings_of_some {s : State} {t : Settings} (h : s.store.settings = some t) (i : Cam) :
    s.camSettings i = some t.cameras[i] := by
  rw [State.camSettings, h]
  rfl

theorem camEnabled_of_some {s : State} {t : Settings} (h : s.store.settings = some t) (i : Cam) :
    s.camEnabled i = t.cameras[i].enabled := by
  rw [State.camEnabled, camSettings_of_some h]

theorem camSettings_of_none {s : State} (h : s.store.settings = none) (i : Cam) : s.camSettings i = none := by
  rw [State.camSettings, h]
  rfl

theorem camEnabled_of_none {s : State} (h : s.store.settings = none) (i : Cam) : s.camEnabled i = false := by
  rw [State.camEnabled, camSettings_of_none h]

theorem enabledMask_getLsbD (s : State) (i : Cam) : s.enabledMask.getLsbD i.val = s.camEnabled i := mask_getLsbD s.camEnabled i

/-- With no settings held a SIGNON carries no function (R29). -/
theorem ownFunctions_of_none {s : State} (h : s.store.settings = none) :
    ownFunctions s = { cameras := 0, encoder := false, seamInput := false, takeOff := false } := by
  unfold ownFunctions State.enabledMask State.encoderStation State.seamStation State.takeOffEnabled
  simp only [camEnabled_of_none h, h]
  rfl

/-! ### The SIGNON and STATUS timers (R29, R30) -/

theorem exec_signonTimerExpiry_of_some {s : State} {b : Time} (h : s.ctl.signonTimer = some b) :
    exec .signonTimerExpiry s = .next (if 100000 ≤ (s.time - b).toNat then
      placeRequest (.signon (s.ctl.identity.getD 0) (ownFunctions s))
        { s with ctl := { s.ctl with signonTimer := some (b + 100000) } } else s) := by
  show execSignonTimerExpiry s = _
  rw [execSignonTimerExpiry, h]
  exact congrArg _ (if_congr (reached_iff _ _ _) rfl rfl)

theorem exec_statusTimerExpiry_of_some {s : State} {b : Time} (h : s.ctl.statusTimer = some b) :
    exec .statusTimerExpiry s = .next (if 100000 ≤ (s.time - b).toNat then
      placeRequest .status { s with ctl := { s.ctl with statusTimer := some (b + 100000) } } else s) := by
  show execStatusTimerExpiry s = _
  rw [execStatusTimerExpiry, h]
  exact congrArg _ (if_congr (reached_iff _ _ _) rfl rfl)

/-! ### The beacon timer (R50, R51) -/

/-- The body of a BEACON requested now (R51). -/
def beaconBody (s : State) : ControlBody :=
  .beacon s.strip.xhat s.strip.vs s.strip.beaconSequence ((s.seam.latest.map SeamRecord.coil).getD 0)
    ((s.seam.latest.map SeamRecord.coord).getD 0) s.time

/-- A BEACON request takes the next sequence, whatever the timer (R51). -/
theorem requestBeacon_of_timer (s : State) (o : Option Time) :
    requestBeacon { s with strip := { s.strip with beaconTimer := o } } = placeRequest (beaconBody s) { s with strip :=
      { s.strip with beaconTimer := o, beaconSequence := s.strip.beaconSequence + 1 } } := rfl

theorem exec_beaconTimerExpiry_of_some {s : State} {b : Time} (h : s.strip.beaconTimer = some b) :
    exec .beaconTimerExpiry s = .next (if 2500 ≤ (s.time - b).toNat then
      placeRequest (beaconBody s) { s with strip := { s.strip with
        beaconTimer := some (b + 2500), beaconSequence := s.strip.beaconSequence + 1 } } else s) := by
  show execBeaconTimerExpiry s = _
  rw [execBeaconTimerExpiry, h]
  exact congrArg _ (if_congr (reached_iff _ _ _) (requestBeacon_of_timer s _) rfl)

theorem beaconing_iff (s : State) : beaconing s = true ↔ s.encoderStation = true ∧ s.strip.clock = .loc
    ∧ s.strip.aligned = true ∧ (s.ctl.state = .joining ∨ s.ctl.state = .running ∨ s.ctl.state = .ringOpen) := by
  simp only [beaconing, Bool.and_eq_true, beq_iff_eq, inserts_iff, and_assoc]

theorem beaconing_eq_false_iff (s : State) : beaconing s = false ↔ s.encoderStation = false ∨ s.strip.clock ≠ .loc
    ∨ s.strip.aligned = false ∨ s.ctl.state = .start ∨ s.ctl.state = .passOnly ∨ s.ctl.state = .duplicate := by
  simp only [beaconing, Bool.and_eq_false_iff, beq_eq_false_iff_ne, inserts_eq_false_iff, or_assoc]

/-- With its conditions true the beacon timer starts with a request, or runs on (R50). -/
theorem recheckBeacon_of_beaconing {s : State} (h : beaconing s = true) :
    recheckBeacon s = if s.strip.beaconTimer = none then
      placeRequest (beaconBody s) { s with strip := { s.strip with
        beaconTimer := some s.time, beaconSequence := s.strip.beaconSequence + 1 } } else s := by
  rw [recheckBeacon, h]
  cases s.strip.beaconTimer with
  | none => exact requestBeacon_of_timer s _
  | some b => rfl

/-- With one of its conditions false the beacon timer is stopped (R50). -/
theorem recheckBeacon_of_quiet {s : State} (h : beaconing s = false) :
    recheckBeacon s = { s with strip := { s.strip with beaconTimer := none } } := by
  rw [recheckBeacon, h]
  cases ht : s.strip.beaconTimer with
  | none => show s = _; rw [← ht]
  | some b => rfl

/-- Settles O34: the settings' part, and each timer by whether it runs. -/
theorem requestTimers : Obligations.RequestTimers := by
  refine ⟨fun s t h => ⟨fun i => ⟨?_, camSettings_of_some h i, camEnabled_of_some h i⟩, ?_⟩,
    fun s h => ⟨ownFunctions_of_none h, fun i => ⟨camSettings_of_none h i, camEnabled_of_none h i⟩, ?_⟩, rfl,
    fun s => ⟨fun h => ?_, fun b => exec_signonTimerExpiry_of_some, fun h => ?_, fun b => exec_statusTimerExpiry_of_some,
      fun h => ?_, ?_⟩⟩
  · exact (enabledMask_getLsbD s i).trans (camEnabled_of_some h i)
  · simp only [ownFunctions, State.encoderStation, State.seamStation, State.takeOffEnabled, h, and_self]
  · simp only [State.encoderStation, State.seamStation, State.takeOffEnabled, h, and_self]
  · show execSignonTimerExpiry s = _
    rw [execSignonTimerExpiry, h]
  · show execStatusTimerExpiry s = _
    rw [execStatusTimerExpiry, h]
  · show execBeaconTimerExpiry s = _
    rw [execBeaconTimerExpiry, h]
  · rintro body rfl
    refine ⟨fun b => exec_beaconTimerExpiry_of_some, fun h => recheckBeacon_of_beaconing ((beaconing_iff s).mpr h),
      fun h => recheckBeacon_of_quiet ((beaconing_eq_false_iff s).mpr h)⟩

end Sys2Proof.StationRoll
end

section
/-! The station roll: what a SIGNON or STATUS of another station writes (O17), and of the own number (O18). -/
namespace Sys2Proof.StationRoll
open Sys2Proof.Machine Sys2Proof.Safety Sys2Proof.FibreRing

/-! ### Parcels of another station (R34 to R36) -/

theorem peerSignon_of_peer {p : List Byte} {s : State} (hs : s.ctl.state ≠ .start) (hn : sourceField p ≠ s.ctl.number) :
    peerSignon p s = onRoll (sourceField p)
      (fun e => signonEntry s.time (identityField p) (functionsField p) (identityChange s.time (identityField p) e)) s := by
  rw [peerSignon, if_neg hs, if_neg hn]

theorem peerStatus_of_peer {p : List Byte} {s : State} (hs : s.ctl.state ≠ .start) (hn : sourceField p ≠ s.ctl.number) :
    peerStatus p s = onRoll (sourceField p)
      (fun e => statusEntry s.time (statusField p) (identityChange s.time (identityField p) e)) s := by
  rw [peerStatus, if_neg hs, if_neg hn]
  rfl

/-- Only CLASH outlasts a STATUS (R36). -/
theorem statusEntry_eq (now : Time) (c : StatusContents) (e : RollEntry) : statusEntry now c e = { e with
    condition := if e.condition = .clash then .clash else .present,
    identity := some c.identity, lastSequence := some c.sequence, receipt := now, missed := missedAfter c.sequence e,
    contents := some c } := by
  unfold statusEntry
  cases e.condition <;> rfl

/-- The sequences skipped since the last join the missed count, which saturates at 255 (R36). -/
theorem missedAfter_eq (q : Word16) (e : RollEntry) : missedAfter q e = match e.lastSequence with
    | some l => BitVec.ofNat 8 (min 255 (e.missed.toNat + (q.toNat + 131072 - l.toNat - 1) % 65536))
    | none => e.missed := by
  unfold missedAfter
  cases e.lastSequence with
  | none => rfl
  | some l =>
    have hskipped : (q - l - 1).toNat = (q.toNat + 131072 - l.toNat - 1) % 65536 := by
      rw [BitVec.toNat_sub, BitVec.toNat_sub, show (1 : Word16).toNat = 1 from rfl]
      have hq := q.isLt
      have hl := l.isLt
      omega
    simp only [satAdd, hskipped, Nat.min_comm]
    rfl

/-- Settles O17: the entry after the identity change, and what each kind writes in it. -/
theorem peerSignonAndStatusWriteTheRoll : Obligations.PeerSignonAndStatusWriteTheRoll := by
  intro p s e hn hs he
  have hchange : identityChange s.time (identityField p) s.ctl.roll[sourceField p] = e := he.symm
  constructor
  · show peerSignon p s = _
    rw [peerSignon_of_peer hs hn, onRoll, change, hchange]
    rfl
  · show peerStatus p s = _
    rw [peerStatus_of_peer hs hn, onRoll, change, hchange, statusEntry_eq, missedAfter_eq]
    rfl

/-! ### Parcels of the own number (R28, R35) -/

/-- In DUPLICATE no beacon is launched, so that the entry stops the beacon timer (R50). -/
theorem enterDuplicate_eq (s : State) : enterDuplicate s = { s with
    ctl := { s.ctl with state := .duplicate, signonTimer := none },
    ease := { s.ease with originating := false, phase := false },
    strip := { s.strip with beaconTimer := none } } :=
  recheckBeacon_of_quiet ((beaconing_eq_false_iff _).mpr (by simp))

/-- The roll with the own entry in CLASH (R35). -/
def clashedRoll (s : State) : Vector RollEntry 16 :=
  put s.ctl.roll s.ctl.number { s.ctl.roll[s.ctl.number] with condition := .clash, identityChange := s.time }

theorem duplicateSeen_of_duplicate {s : State} (h : s.ctl.state = .duplicate) :
    duplicateSeen s = { s with ctl := { s.ctl with roll := clashedRoll s } } := by
  unfold duplicateSeen
  exact if_pos h

theorem duplicateSeen_of_other {s : State} (h : s.ctl.state ≠ .duplicate) :
    duplicateSeen s = { s with
      ctl := { s.ctl with state := .duplicate, signonTimer := none, roll := clashedRoll s },
      ease := { s.ease with originating := false, phase := false },
      strip := { s.strip with beaconTimer := none } } := by
  unfold duplicateSeen
  exact (if_neg h).trans (enterDuplicate_eq _)

/-- A SIGNON or STATUS of the own number acts by its identity alone (R28, R35). -/
theorem offerPeer_of_own_number {p : List Byte} {k : Kind} {s : State} (hk : k = .signon ∨ k = .status)
    (hn : sourceField p = s.ctl.number) :
    offerPeer k p s =
      if s.ctl.state = .start then s else if some (identityField p) = s.ctl.identity then s else duplicateSeen s := by
  rcases hk with rfl | rfl
  · show peerSignon p s = _
    rw [peerSignon, if_pos hn]
  · show peerStatus p s = _
    rw [peerStatus, if_pos hn]
    rfl

/-- Settles O18, by the identity of the parcel and the station state. -/
theorem duplicateNumberIsSeen : Obligations.DuplicateNumberIsSeen := by
  intro p k s hk hn
  rw [offerPeer_of_own_number hk hn]
  refine ⟨?_, fun hd hid => ?_, fun hs hd hid => ?_⟩
  · rintro (hs | hid)
    · rw [if_pos hs]
    · rw [if_pos hid, ite_self]
  · rw [if_neg (by rw [hd]; decide), if_neg hid, duplicateSeen_of_duplicate hd]
    rfl
  · rw [if_neg hs, if_neg hid, duplicateSeen_of_other hd]
    rfl

end Sys2Proof.StationRoll
end

section
/-! The configuration record (R22, R176, Tables 12.7 and 12.8): its words, its validity, and where each setting lies (O33). -/
namespace Sys2Proof.StationRoll
open Sys2Proof.Machine Sys2Proof.Safety Sys2Proof.FibreRing

/-! ### Words and their fields -/

theorem wordAt_val (m : Vector Word16 128) (j : Fin 128) : wordAt m j.val = m[j] := by
  simp [wordAt, List.getD_eq_getElem?_getD]

theorem extract_toNat {a n : Nat} (x : Word16) : (x.extractLsb' a n).toNat = x.toNat / 2 ^ a % 2 ^ n := by
  rw [BitVec.extractLsb'_toNat, Nat.shiftRight_eq_div_pow]

theorem extract_zero_toNat {n : Nat} (x : Word16) : (x.extractLsb' 0 n).toNat = x.toNat % 2 ^ n := by
  rw [extract_toNat, Nat.pow_zero, Nat.div_one]

theorem extract_eq_iff {a n : Nat} (x : Word16) (c : BitVec n) : x.extractLsb' a n = c ↔ x.toNat / 2 ^ a % 2 ^ n = c.toNat := by
  rw [← BitVec.toNat_inj, extract_toNat]

/-- Two words are 0 when both are. -/
theorem append_toNat_eq_zero {x y : Word16} : (x ++ y).toNat = 0 ↔ x = 0 ∧ y = 0 := by
  have hy := y.isLt
  have happend : (x ++ y).toNat = x.toNat * 65536 + y.toNat := by
    rw [BitVec.toNat_append, ← Nat.shiftLeft_add_eq_or_of_lt hy, Nat.shiftLeft_eq]
  rw [happend, ← BitVec.toNat_inj, ← BitVec.toNat_inj]
  show _ ↔ x.toNat = 0 ∧ y.toNat = 0
  omega

theorem foldl_add_toNat (l : List Word16) (a : Word16) :
    (l.foldl (· + ·) a).toNat = (a.toNat + (l.map BitVec.toNat).sum) % 65536 := by
  induction l generalizing a with
  | nil => exact (Nat.mod_eq_of_lt a.isLt).symm
  | cons x l ih =>
    rw [List.foldl_cons, ih, BitVec.toNat_add, List.map_cons, List.sum_cons]
    omega

theorem filters_get (m : Vector Word16 128) (j : Fin 8) : (recordSettings m).filters[j] = filterAt m j.val := by
  match j with
  | 0 | 1 | 2 | 3 | 4 | 5 | 6 | 7 => rfl

section
variable {m : Vector Word16 128} {w : Nat → Word16} (hw : ∀ j : Fin 128, w j.val = m[j])
include hw

theorem wordAt_eq {i : Nat} (hi : i < 128) : wordAt m i = w i := by
  rw [wordAt_val m ⟨i, hi⟩, ← hw]

theorem twoWords_eq {i : Nat} (hi : i + 1 < 128) : twoWords m i = w i ++ w (i + 1) := by
  rw [twoWords, wordAt_eq hw hi, wordAt_eq hw (Nat.lt_of_succ_lt hi)]

/-! ### Validity of the record (R176) -/

theorem toList_eq_map_range : m.toList = (List.range 128).map w := by
  apply List.ext_getElem
  · simp
  · intro i hi _
    have hlt : i < 128 := by simpa using hi
    simpa using (hw ⟨i, hlt⟩).symm

/-- The sum of the words, as numbers (R176). -/
theorem wordSum_toNat : (wordSum m).toNat = ((List.range 128).map (fun j => (w j).toNat)).sum % 65536 := by
  rw [wordSum, foldl_add_toNat, toList_eq_map_range hw, List.map_map]
  exact congrArg (· % 65536) (Nat.zero_add _)

theorem recordValid_iff : recordValid m = true ↔
    w 0 = 0x5C3A ∧ w 1 = 0x91E7 ∧ ((List.range 128).map (fun j => (w j).toNat)).sum % 65536 = 0 := by
  rw [recordValid, wordAt_eq hw (by decide), wordAt_eq hw (by decide), ← wordSum_toNat hw, Bool.and_eq_true, Bool.and_eq_true,
    beq_iff_eq, beq_iff_eq, beq_iff_eq, and_assoc, ← BitVec.toNat_inj (x := wordSum m)]
  rfl

/-! ### The functions of the station (R41, R70, R145, R178) -/

theorem encoderValid_iff : encoderValid m = true ↔ w 6 ≠ 0 ∧ w 7 ≠ 0 := by
  rw [encoderValid, wordAt_eq hw (by decide), wordAt_eq hw (by decide), Bool.and_eq_true, bne_iff_ne, bne_iff_ne]

theorem lockoutValid_iff : lockoutValid m = true ↔ 1 ≤ (w 12 ++ w 13).toNat ∧ (w 12 ++ w 13).toNat ≤ 1000000 := by
  rw [lockoutValid, twoWords_eq hw (by decide), decide_eq_true_iff]

theorem policyValid_iff : policyValid m = true ↔ (w 4).toNat % 4 ≤ 1 := by
  rw [policyValid, wordAt_eq hw (by decide), decide_eq_true_iff, extract_zero_toNat]
  rfl

/-- A function is enabled when its bit is set and its fields are valid. -/
theorem enabled_iff {n : Nat} {v : Bool} {p : Prop} (hv : v = true ↔ p) :
    (bit (wordAt m 4) n && v) = true ↔ (w 4).getLsbD n = true ∧ p := by
  rw [wordAt_eq hw (by decide), Bool.and_eq_true, hv, bit]

/-- A set bit with an invalid field is a fault (R178). -/
theorem fault_iff {n : Nat} {v : Bool} {p : Prop} (hv : v = true ↔ p) :
    (bit (wordAt m 4) n && !v) = true ↔ (w 4).getLsbD n = true ∧ ¬ p := by
  rw [wordAt_eq hw (by decide), Bool.and_eq_true, Bool.not_eq_true', ← Bool.not_eq_true, hv, bit]

theorem encoderFault_iff : (recordFaults m).encoder = true ↔ (w 4).getLsbD 15 = true ∧ (w 6 = 0 ∨ w 7 = 0) := by
  refine (fault_iff hw (encoderValid_iff hw)).trans (and_congr_right fun _ => ?_)
  rw [not_and_or, not_not, not_not]

theorem seamInputFault_iff :
    (recordFaults m).seamInput = true ↔
      (w 4).getLsbD 13 = true ∧ ((w 12 ++ w 13).toNat = 0 ∨ 1000000 < (w 12 ++ w 13).toNat) := by
  refine (fault_iff hw (lockoutValid_iff hw)).trans (and_congr_right fun _ => ?_)
  omega

theorem takeOffFault_iff : (recordFaults m).takeOff = true ↔ (w 4).getLsbD 12 = true ∧ 1 < (w 4).toNat % 4 := by
  refine (fault_iff hw (policyValid_iff hw)).trans (and_congr_right fun _ => ?_)
  rw [Nat.not_le]

theorem deliverBroken_iff : (recordSettings m).deliverBroken = true ↔ (w 4).toNat % 4 = 1 := by
  show ((wordAt m 4).extractLsb' 0 2 == 1) = true ↔ _
  rw [wordAt_eq hw (by decide), beq_iff_eq, ← BitVec.toNat_inj, extract_zero_toNat]
  rfl

/-! ### Filters -/

theorem filterAt_eq (j : Fin 8) :
    (filterAt m j.val).enabled = (w (14 + j.val)).getLsbD 15
      ∧ (filterAt m j.val).value.toNat = (w (14 + j.val)).toNat / 256 % 64
      ∧ (filterAt m j.val).mask.toNat = (w (14 + j.val)).toNat % 64 := by
  have hj := j.isLt
  simp only [filterAt, wordAt_eq hw (show 14 + j.val < 128 by omega), extract_toNat]
  exact ⟨rfl, rfl, Nat.div_one _ ▸ rfl⟩

end

/-! ### Cameras (Table 12.8) -/

theorem cameras_get (m : Vector Word16 128) (i : Cam) : (recordSettings m).cameras[i] = cameraSettings m i.val :=
  cams_get (fun i => cameraSettings m i.val) i

theorem faults_cameras_getLsbD (m : Vector Word16 128) (i : Cam) :
    (recordFaults m).cameras.getLsbD i.val = cameraFault m i.val := mask_getLsbD (fun i => cameraFault m i.val) i

section
variable {m : Vector Word16 128} {w v : Nat → Word16} {i : Cam} (hw : ∀ j : Fin 128, w j.val = m[j])
  (hv : ∀ k, v k = w (22 + 19 * i.val + k))
include hw hv

theorem wordAt_camera {k : Nat} (hk : k ≤ 18) : wordAt m (cameraBase i.val + k) = v k := by
  have hi := i.isLt
  rw [hv]
  exact wordAt_eq hw (by unfold cameraBase; omega)

theorem wordAt_cameraBase : wordAt m (cameraBase i.val) = v 0 := wordAt_camera hw hv (Nat.zero_le _)

theorem twoWords_camera {k : Nat} (hk : k < 18) : twoWords m (cameraBase i.val + k) = v k ++ v (k + 1) := by
  rw [twoWords, wordAt_camera hw hv hk.le, Nat.add_assoc, wordAt_camera hw hv hk]

/-- The fields of a camera, each in the words of its block. -/
theorem cameraFields_eq :
    cameraFields m i.val =
      { enabled := (v 0).getLsbD 15, free := (v 0).getLsbD 14, substitute := (v 0).getLsbD 13,
        lengthCheck := (v 0).getLsbD 12, inputDepth := (v 0).toNat / 256 % 16, deep := decide ((v 0).toNat / 16 % 16 = 2),
        fill := if (v 0).toNat % 4 = 1 then .flat else if (v 0).toNat % 4 = 2 then .ramp else .black,
        pitch := (v 1).toNat, offset := (v 2 ++ v 3).toInt, minInterval := (v 4).toNat,
        timeout := if v 5 = 0 ∧ v 6 = 0 then 10000 else (v 5 ++ v 6).toNat, fallback := (v 7 ++ v 8).toNat,
        nominal := (v 9).toNat, windowStart := (v 10).toNat, windowWidth := (v 11).toNat, black := (v 12).toNat,
        gain := (v 13).toNat, lift := (v 14).toInt, low := (v 15).toNat, high := (v 16).toNat, peak := (v 17).toNat,
        thin := if (v 18).toNat ≤ 1 then 1 else min (v 18).toNat 16, nominalCount := 0, blackValue := 0 } := by
  have hdeep : ((v 0).extractLsb' 4 4 == 2) = decide ((v 0).toNat / 16 % 16 = 2) := by
    rw [Bool.eq_iff_iff, beq_iff_eq, extract_eq_iff, decide_eq_true_iff]
    rfl
  have hfill (c : BitVec 2) : (v 0).extractLsb' 0 2 = c ↔ (v 0).toNat % 4 = c.toNat := by
    rw [← BitVec.toNat_inj, extract_zero_toNat]
    rfl
  have hthin : thinFactor (v 18).toNat = if (v 18).toNat ≤ 1 then 1 else min (v 18).toNat 16 := by
    unfold thinFactor
    split
    · rfl
    · exact Nat.min_def.symm
  simp (disch := decide) only [cameraFields, bit, wordAt_cameraBase hw hv, wordAt_camera hw hv, twoWords_camera hw hv,
    Nat.reduceAdd, extract_toNat, append_toNat_eq_zero, hdeep, hfill, hthin]
  rfl

/-- The ranges of the trigger fields (Table 5.1) and of the port fields (Table 6.1). -/
theorem cameraValid_iff :
    cameraValid m i.val = true ↔
      1 ≤ (v 1).toNat ∧ 10 ≤ (v 4).toNat
      ∧ ((v 5 ++ v 6).toNat = 0 ∨ (500 ≤ (v 5 ++ v 6).toNat ∧ (v 5 ++ v 6).toNat ≤ 100000))
      ∧ ((v 7 ++ v 8).toNat = 0
        ∨ (100 ≤ (v 7 ++ v 8).toNat ∧ (v 7 ++ v 8).toNat ≤ 1000000 ∧ (v 4).toNat ≤ (v 7 ++ v 8).toNat))
      ∧ ((v 0).toNat / 256 % 16 = 8 ∨ (v 0).toNat / 256 % 16 = 10 ∨ (v 0).toNat / 256 % 16 = 12)
      ∧ ((v 0).toNat / 16 % 16 = 1 ∨ (v 0).toNat / 16 % 16 = 2) ∧ (v 0).toNat % 4 ≤ 2
      ∧ 256 ≤ (v 9).toNat ∧ (v 9).toNat ≤ 16384 ∧ (v 10).toNat ≤ 1023 ∧ (v 10).toNat < (v 9).toNat
      ∧ (v 11).toNat ≤ 16384 ∧ (v 12).toNat ≤ 4095 ∧ (v 13).toNat ≤ 1023
      ∧ -2048 ≤ (v 14).toInt ∧ (v 14).toInt ≤ 2047 ∧ (v 15).toNat ≤ (v 16).toNat
      ∧ (v 16).toNat ≤ (if (v 0).toNat / 16 % 16 = 2 then 4095 else 255) := by
  simp (disch := decide) only [cameraValid, triggerValid, portValid, cameraFields_eq hw hv, wordAt_cameraBase hw hv,
    twoWords_camera hw hv, Nat.reduceAdd, extract_toNat, Nat.reducePow, Nat.div_one, Bool.and_eq_true, decide_eq_true_eq,
    and_assoc]

/-- A camera is enabled when its bit is set and all its fields are valid (R85, R101). -/
theorem cameraEnabled_iff :
    (cameraSettings m i.val).enabled = true ↔ (v 0).getLsbD 15 = true ∧ cameraValid m i.val = true := by
  show ((cameraFields m i.val).enabled && cameraValid m i.val) = true ↔ _
  rw [cameraFields_eq hw hv, Bool.and_eq_true]

/-- A camera's bit with an invalid field is a fault (R178). -/
theorem cameraFault_iff :
    (recordFaults m).cameras.getLsbD i.val = true ↔ (v 0).getLsbD 15 = true ∧ cameraValid m i.val = false := by
  rw [faults_cameras_getLsbD, cameraFault, wordAt_cameraBase hw hv, Bool.and_eq_true, Bool.not_eq_true', bit]

theorem cameraFill_iff : ((cameraFields m i.val).fill = .flat ↔ (v 0).toNat % 4 = 1)
    ∧ ((cameraFields m i.val).fill = .ramp ↔ (v 0).toNat % 4 = 2) := by
  rw [cameraFields_eq hw hv]
  simp only
  split
  next hone => simp [hone]
  next hone =>
    split
    next htwo => simp [htwo]
    next htwo => simp [hone, htwo]

end

/-- Settles O33: the words of the record, the functions, the filters, and the fields of each camera. -/
theorem recordLayout : Obligations.RecordLayout := by
  intro m w hw
  have hword (i : Nat) (hi : i < 128) : wordAt m i = w i := wordAt_eq hw hi
  have htwo (i : Nat) (hi : i + 1 < 128) : twoWords m i = w i ++ w (i + 1) := twoWords_eq hw hi
  refine ⟨recordValid_iff hw, htwo 2 (by decide), hword 5 (by decide), enabled_iff hw (encoderValid_iff hw),
    encoderFault_iff hw, seamInputFault_iff hw, takeOffFault_iff hw, congrArg (bit · 14) (hword 4 (by decide)),
    congrArg BitVec.toNat (hword 6 (by decide)), congrArg BitVec.toNat (hword 7 (by decide)),
    congrArg BitVec.toInt (htwo 8 (by decide)), congrArg BitVec.toInt (htwo 10 (by decide)),
    congrArg BitVec.toNat (htwo 12 (by decide)), enabled_iff hw (lockoutValid_iff hw), enabled_iff hw (policyValid_iff hw),
    deliverBroken_iff hw, fun j => ?_, ?_⟩
  · rw [filters_get]
    exact filterAt_eq hw j
  · rintro i c v hc hv
    obtain rfl : c = cameraSettings m i.val := hc.trans (cameras_get m i)
    have hfields := cameraFields_eq hw hv
    obtain ⟨hflat, hramp⟩ := cameraFill_iff hw hv
    refine ⟨cameraValid_iff hw hv, rfl, rfl, cameraEnabled_iff hw hv, cameraFault_iff hw hv,
      congrArg CameraSettings.free hfields, congrArg CameraSettings.substitute hfields,
      congrArg CameraSettings.lengthCheck hfields, congrArg CameraSettings.inputDepth hfields, ?_, hflat, hramp,
      congrArg CameraSettings.pitch hfields, congrArg CameraSettings.offset hfields,
      congrArg CameraSettings.minInterval hfields, congrArg CameraSettings.timeout hfields,
      congrArg CameraSettings.fallback hfields, congrArg CameraSettings.nominal hfields,
      congrArg CameraSettings.windowStart hfields, congrArg CameraSettings.windowWidth hfields,
      congrArg CameraSettings.black hfields, congrArg CameraSettings.gain hfields, congrArg CameraSettings.lift hfields,
      congrArg CameraSettings.low hfields, congrArg CameraSettings.high hfields, congrArg CameraSettings.peak hfields,
      congrArg CameraSettings.thin hfields⟩
    show (cameraFields m i.val).deep = true ↔ _
    rw [hfields, decide_eq_true_iff]

end Sys2Proof.StationRoll
end

section
/-! The end of START: the EEPROM read finds no valid record (O31), or a valid one (O32). -/
namespace Sys2Proof.StationRoll
open Sys2Proof.Machine Sys2Proof.Safety Sys2Proof.FibreRing

/-! ### The end of the read (R176) -/

theorem recordIdentity_eq (m : Vector Word16 128) : recordIdentity m = m[2] ++ m[3] :=
  congrArg₂ (· ++ ·) (wordAt_val m 2) (wordAt_val m 3)

theorem recordLinkDelay_eq (m : Vector Word16 128) : recordLinkDelay m = m[5] := wordAt_val m 5

theorem exec_eepromReadComplete_of_early {s : State}
    (h : ∀ b, s.store.readStart = some b → (s.time - b).toNat < 20000) : exec .eepromReadComplete s = .next s := by
  have hdue : ¬ timerDue s.time s.store.readStart Config.readTime = true := by
    rw [timerDue_iff]
    rintro ⟨b, hb, hover⟩
    exact absurd (h b hb) (Nat.not_lt.mpr hover)
  exact congrArg _ (if_neg hdue)

theorem exec_eepromReadComplete_of_over {s : State} {b : Time} (hb : s.store.readStart = some b)
    (hover : 20000 ≤ (s.time - b).toNat) :
    exec .eepromReadComplete s = .next (if recordValid s.store.eeprom then enterJoining (takeSettings (finishRead s))
      else enterPassOnly (finishRead s)) :=
  congrArg _ (if_pos ((timerDue_iff _ _ _).mpr ⟨b, hb, hover⟩))

/-! ### PASS_ONLY (R23) -/

/-- No function of the station is on (R29). -/
def noFunctions : Functions := { cameras := 0, encoder := false, seamInput := false, takeOff := false }

/-- The station as it enters PASS_ONLY, before its requests: it has its identity, every function is off, and no settings are held
(R23, R178). -/
def passOnlyStation (s : State) : State :=
  { s with
    ctl := { s.ctl with
      identity := some (recordIdentity s.store.eeprom), state := .passOnly, statusTimer := some s.time,
      signonTimer := if s.ring.link = .up then some s.time else s.ctl.signonTimer },
    strip := { s.strip with encoder := .none, clock := .none, followed := none },
    cams := each (fun c => { c with port := { c.port with state := .off } }) s.cams,
    store := { s.store with
      image := s.store.eeprom, imageRead := 128, readStart := none, settings := none, faults := .clear } }

theorem enterPassOnly_finishRead (s : State) : enterPassOnly (finishRead s) = placeRequest .status
    (if s.ring.link = .up then
      placeRequest (.signon (recordIdentity s.store.eeprom) noFunctions) (passOnlyStation s)
    else passOnlyStation s) := by
  have hnone : ownFunctions (passOnlyStation s) = noFunctions := ownFunctions_of_none rfl
  rw [← hnone]
  unfold enterPassOnly requestStatus requestSignon passOnlyStation
  by_cases hup : s.ring.link = .up
  · simp only [finishRead, hup, if_true]
    rfl
  · simp only [finishRead, hup, if_false]

/-- Settles O31, by whether the read is over. -/
theorem readFindsNoValidRecord : Obligations.ReadFindsNoValidRecord := by
  refine ⟨fun s h => exec_eepromReadComplete_of_early fun b hb => (nomatch h.symm.trans hb),
    fun b s hb h => exec_eepromReadComplete_of_early fun c hc => ?_, fun b s u hb hover hinvalid hu => ?_⟩
  · cases hb.symm.trans hc
    exact h
  · rw [← recordIdentity_eq] at *
    obtain rfl : u = passOnlyStation s := hu
    rw [exec_eepromReadComplete_of_over hb hover, if_neg (by simp [hinvalid]), enterPassOnly_finishRead]
    rfl

/-! ### The blocks at an entry into JOINING -/

/-- An encoder that begins is GOOD, and its station is its own source (R69). -/
theorem stripJoining_of_first {now : Time} {t : Settings} {u : StripUnit} (ht : t.encoder = true) (hu : u.encoder = .none) :
    stripJoining now t u = { u with
      encoder := .good, lastCount := u.count, residue := 0, clock := .loc, followed := none, source := .loc,
      alignStart := some now, aligned := false } := by
  unfold stripJoining
  rw [if_pos ht, hu]

/-- An encoder that was there keeps its state, and its residue where that lies below the new denominator (R69). -/
theorem stripJoining_of_again {now : Time} {t : Settings} {u : StripUnit} (ht : t.encoder = true) (hu : u.encoder ≠ .none) :
    stripJoining now t u = { u with
      residue := if u.residue.toNat < t.den then u.residue else 0, alignStart := some now, aligned := false } := by
  unfold stripJoining
  rw [if_pos ht]
  cases h : u.encoder with
  | none => exact absurd h hu
  | good | fault => rfl

/-- Without an encoder a station in LOCAL has no source (R69). -/
theorem stripJoining_of_follower {now : Time} {t : Settings} {u : StripUnit} (ht : t.encoder = false) :
    stripJoining now t u = { u with
      encoder := .none, illegal := [],
      clock := if u.clock = .loc then .none else u.clock,
      followed := if u.clock = .loc then none else u.followed,
      source := if u.clock = .loc then .none else u.source } := by
  unfold stripJoining
  rw [if_neg (by simp [ht])]
  by_cases hc : u.clock = .loc
  · simp only [hc, if_true]
  · simp only [hc, if_false]

/-- The strip position unit, the camera ports and the delivery port at an entry into JOINING (R65, R69, R86, R103, R163). -/
def portsJoined (t : Settings) (s : State) : State :=
  { s with
    strip := stripJoining s.time t s.strip, cams := #v[camJoining s 0, camJoining s 1, camJoining s 2, camJoining s 3],
    dlv := { s.dlv with active := t.takeOff } }

/-- The blocks at an entry into JOINING, with the fallback marks of the cameras where the clock places no seam (R93), before the
kept latest-seam record is offered. -/
def blocksJoined (t : Settings) (s : State) : State :=
  if unplaceable (portsJoined t s).strip.clock then markFallback (portsJoined t s) else portsJoined t s

theorem joinBlocks_eq (t : Settings) (s : State) : joinBlocks t s = offerKeptSeam (blocksJoined t s) := rfl

/-- The blocks that an entry into JOINING leaves as they were, and those of which it decides all. -/
theorem blocksJoined_rest (t : Settings) (s : State) :
    (blocksJoined t s).pending = s.pending ∧ (blocksJoined t s).freeCount = s.freeCount ∧ (blocksJoined t s).time = s.time
      ∧ (blocksJoined t s).ring = s.ring ∧ (blocksJoined t s).ctl = s.ctl
      ∧ (blocksJoined t s).strip = stripJoining s.time t s.strip ∧ (blocksJoined t s).seam = s.seam
      ∧ (blocksJoined t s).seg = s.seg ∧ (blocksJoined t s).ease = s.ease ∧ (blocksJoined t s).take = s.take
      ∧ (blocksJoined t s).dlv = { s.dlv with active := t.takeOff } ∧ (blocksJoined t s).svc = s.svc
      ∧ (blocksJoined t s).store = s.store := by
  unfold blocksJoined
  split <;> simp [portsJoined]

theorem unplaceable_iff (c : ClockState) : unplaceable c = true ↔ c = .none ∨ c = .held := by
  cases c <;> simp [unplaceable]

theorem markFallback_get {s : State} (h : s.ctl.state.runs = true) (i : Cam) :
    (markFallback s).cams[i] = { s.cams[i] with trig := { s.cams[i].trig with
      fallbackMark := if s.camEnabled i = true then s.cams[i].trig.lastTrigger else s.cams[i].trig.fallbackMark } } := by
  unfold markFallback
  rw [if_pos h]
  refine (cams_get (markFallback.mark s) i).trans ?_
  unfold markFallback.mark
  cases s.camEnabled i <;> rfl

/-- Each camera at an entry into JOINING (R86, R93, R103). -/
theorem blocksJoined_cams {t : Settings} {s : State} (h : s.ctl.state.runs = true) (i : Cam) :
    (blocksJoined t s).cams[i] = { s.cams[i] with
      port := { s.cams[i].port with state := if s.camEnabled i = true then .dark else .off },
      trig := { s.cams[i].trig with
        fallbackMark :=
          if s.camEnabled i = true ∧ ((blocksJoined t s).strip.clock = .none ∨ (blocksJoined t s).strip.clock = .held) then
            s.cams[i].trig.lastTrigger
          else s.cams[i].trig.fallbackMark } } := by
  have hclock : (blocksJoined t s).strip = (portsJoined t s).strip := by simp [blocksJoined_rest, portsJoined]
  have hport : (portsJoined t s).cams[i] = camJoining s i := cams_get (camJoining s) i
  simp only [hclock, ← unplaceable_iff]
  unfold blocksJoined
  split
  next hc =>
    rw [markFallback_get (s := portsJoined t s) h, hport]
    simp only [hc, and_true]
    rfl
  next hc =>
    rw [hport]
    simp only [hc, Bool.false_eq_true, and_false, if_false]
    rfl

/-- The kept latest-seam record acts on the seam unit alone (R81). -/
theorem offerKeptSeam_eq (s : State) : offerKeptSeam s = { s with seam := (offerKeptSeam s).seam } := by
  unfold offerKeptSeam offerSeam
  split
  · split
    · rfl
    · split <;> rfl
  · rfl

theorem offerKeptSeam_of_none {s : State} (h : s.seam.latest = none) : offerKeptSeam s = s := by
  rw [offerKeptSeam, h]

/-- The state before the offer is the one after it with the seam unit as it was (R81). -/
theorem offerKeptSeam_of_some {s : State} {r : SeamRecord} (h : s.seam.latest = some r) :
    offerKeptSeam s = offerSeam r { offerKeptSeam s with seam := s.seam } := by
  have hbefore : { offerKeptSeam s with seam := s.seam } = s := by rw [offerKeptSeam_eq]
  rw [hbefore, offerKeptSeam, h]

/-! ### JOINING (R24) -/

/-- The station as it enters JOINING, before its blocks act and its requests are placed: settings and identity are taken, and
station control is in JOINING (R22, R24, R181). -/
def joiningControl (s : State) : State :=
  { takeSettings (finishRead s) with ctl := { s.ctl with
    identity := some (recordIdentity s.store.eeprom), state := .joining, configValid := true, pendingReturn := [],
    statusTimer := some s.time } }

/-- The station as it enters JOINING, before its requests. -/
def joiningStation (s : State) : State := joinBlocks (recordSettings s.store.eeprom) (joiningControl s)

theorem enterJoining_takeSettings (s : State) : enterJoining (takeSettings (finishRead s)) =
    let v := requestStatus (if s.ring.link = .up then
        requestSignon { joiningStation s with ctl := { (joiningStation s).ctl with signonTimer := some s.time } }
      else joiningStation s)
    if s.ring.link = .dark then enterOpen v else v := rfl

/-- The station that enters JOINING, but for its seam unit and its cameras. -/
theorem joiningStation_rest (s : State) :
    (joiningStation s).pending = s.pending ∧ (joiningStation s).freeCount = s.freeCount ∧ (joiningStation s).time = s.time
      ∧ (joiningStation s).ring = { s.ring with linkDelay := recordLinkDelay s.store.eeprom }
      ∧ (joiningStation s).ctl = { s.ctl with
          identity := some (recordIdentity s.store.eeprom), state := .joining, configValid := true, pendingReturn := [],
          statusTimer := some s.time }
      ∧ (joiningStation s).strip = stripJoining s.time (recordSettings s.store.eeprom) s.strip
      ∧ (joiningStation s).seg = s.seg ∧ (joiningStation s).ease = s.ease ∧ (joiningStation s).take = s.take
      ∧ (joiningStation s).dlv = { s.dlv with active := (recordSettings s.store.eeprom).takeOff }
      ∧ (joiningStation s).svc = s.svc
      ∧ (joiningStation s).store = { s.store with
          image := s.store.eeprom, imageRead := 128, readStart := none, settings := some (recordSettings s.store.eeprom),
          faults := recordFaults s.store.eeprom } := by
  simp [joiningStation, joinBlocks_eq, blocksJoined_rest, joiningControl, takeSettings, finishRead]

theorem joiningStation_cams (s : State) (i : Cam) : (joiningStation s).cams[i] = { s.cams[i] with
    port := { s.cams[i].port with state := if (recordSettings s.store.eeprom).cameras[i].enabled = true then .dark else .off },
    trig := { s.cams[i].trig with
      fallbackMark :=
        if (recordSettings s.store.eeprom).cameras[i].enabled = true
          ∧ ((joiningStation s).strip.clock = .none ∨ (joiningStation s).strip.clock = .held) then s.cams[i].trig.lastTrigger
        else s.cams[i].trig.fallbackMark } } := by
  have hcams : (joiningStation s).cams = (blocksJoined (recordSettings s.store.eeprom) (joiningControl s)).cams := by
    simp [joiningStation, joinBlocks_eq]
  have hstrip : (joiningStation s).strip = (blocksJoined (recordSettings s.store.eeprom) (joiningControl s)).strip := by
    simp [joiningStation, joinBlocks_eq]
  have henabled : (joiningControl s).camEnabled i = (recordSettings s.store.eeprom).cameras[i].enabled := camEnabled_of_some rfl i
  have hget := blocksJoined_cams (t := recordSettings s.store.eeprom) (s := joiningControl s) rfl i
  simp only [henabled] at hget
  simp only [hcams, hstrip, hget]
  rfl

theorem joiningStation_seam_of_none {s : State} (h : s.seam.latest = none) : (joiningStation s).seam = s.seam := by
  have hseam : (blocksJoined (recordSettings s.store.eeprom) (joiningControl s)).seam = s.seam := by
    simp [blocksJoined_rest, joiningControl, takeSettings, finishRead]
  rw [joiningStation, joinBlocks_eq, offerKeptSeam_of_none (by rw [hseam]; exact h), hseam]

theorem joiningStation_seam_of_some {s : State} {r : SeamRecord} (h : s.seam.latest = some r) :
    (joiningStation s).seam = (offerSeam r { joiningStation s with seam := s.seam }).seam := by
  have hseam : (blocksJoined (recordSettings s.store.eeprom) (joiningControl s)).seam = s.seam := by
    simp [blocksJoined_rest, joiningControl, takeSettings, finishRead]
  have hoffer := offerKeptSeam_of_some (s := blocksJoined (recordSettings s.store.eeprom) (joiningControl s))
    (by rw [hseam]; exact h)
  rw [hseam] at hoffer
  exact congrArg State.seam hoffer

/-! ### A launch in JOINING -/

/-- With a place in the pending-return list a launched STATUS makes no record overdue (R27). -/
theorem launchControl_state_of_room {p : ControlParcel} {s : State} (h : s.ctl.pendingReturn.length < 4) :
    (launchControl p s).ctl.state = s.ctl.state := by
  unfold launchControl
  split
  case h_2 => rw [launchStatus_of_room h]
  all_goals rfl

theorem outboundFree_state_of_room {s : State} (h : s.ctl.pendingReturn.length < 4) :
    (outboundFree s).ctl.state = s.ctl.state := by
  have hctl : ∀ c, (countDecision c (clearDown s)).ctl = s.ctl := fun c => by simp
  unfold outboundFree sendChosen
  simp only
  split
  · split
    · rw [hctl]
    · simp only [startSending_rest, hctl]
  · split
    · rw [hctl]
    · rw [launchControl_state_of_room]
      · rw [hctl]
      · rw [hctl]; exact h
  · split
    · rw [hctl]
    · simp only [startSending_rest, hctl]
  · rw [hctl]

theorem freeWhileIdle_state_of_room {s : State} (h : s.ctl.pendingReturn.length < 4) :
    (freeWhileIdle s).ctl.state = s.ctl.state := by
  classical
  by_cases hb : PortBusy s
  · rw [freeWhileIdle_of_busy hb]
  · rcases Nat.lt_or_ge s.ring.idleUnits 2 with hyoung | hlong
    · rw [freeWhileIdle_of_young hb hyoung]
      split
      · exact outboundFree_state_of_room h
      · split
        · rfl
        · exact outboundFree_state_of_room h
    · rw [freeWhileIdle_of_long hb hlong]
      exact outboundFree_state_of_room h

theorem placeRequest_state_of_room {b : ControlBody} {s : State} (h : s.ctl.pendingReturn.length < 4) :
    (placeRequest b s).ctl.state = s.ctl.state := by
  unfold placeRequest joinControl
  simp only
  split
  · rfl
  · exact freeWhileIdle_state_of_room h

/-- A JOINING station that finds the inbound DARK passes on to OPEN after its STATUS request (R24). -/
theorem enterOpen_of_joining {v : State} (h : v.ctl.state = .joining) :
    enterOpen v = { v with ctl := { v.ctl with state := .ringOpen, signonTimer := none } } := by
  rw [enterOpen, h]

/-- Settles O32: block by block, and the requests by the state of the inbound link. -/
theorem readFindsAValidRecord : Obligations.ReadFindsAValidRecord := by
  rintro b s t hb hover hvalid rfl
  have hexec := exec_eepromReadComplete_of_over hb hover
  rw [if_pos hvalid, enterJoining_takeSettings] at hexec
  rw [← recordIdentity_eq, ← recordLinkDelay_eq]
  obtain ⟨hpending, hfree, htime, hring, hctl, hstrip, hseg, hease, htake, hdlv, hsvc, hstore⟩ := joiningStation_rest s
  refine ⟨joiningStation s, ?_, hring, hctl, hstore, hdlv, fun ht he => hstrip.trans (stripJoining_of_first ht he),
    fun ht he => hstrip.trans (stripJoining_of_again ht he), fun ht => hstrip.trans (stripJoining_of_follower ht),
    joiningStation_cams s, joiningStation_seam_of_none, fun r => joiningStation_seam_of_some, fun hup => ?_, fun hsync => ?_,
    fun hdark => ?_⟩
  · rw [← hpending, ← hfree, ← htime, ← hseg, ← hease, ← htake, ← hsvc]
  · have hidentity : (joiningStation s).ctl.identity.getD 0 = recordIdentity s.store.eeprom := by rw [hctl]; rfl
    rw [hexec, hup, ← hidentity]
    rfl
  · rw [hexec, hsync]
    rfl
  · refine ⟨_, rfl, ?_⟩
    have hstate : (placeRequest .status (joiningStation s)).ctl.state = .joining := by
      rw [placeRequest_state_of_room (by rw [hctl]; exact Nat.zero_lt_succ 3), hctl]
    rw [hexec, hdark, ← enterOpen_of_joining hstate]
    rfl

end Sys2Proof.StationRoll
end

section
/-! What the shared operations do to the modes of the station: its state, the configuration-valid flag, the settings held, the
EEPROM read and the delivery port (Table 2.1). -/
namespace Sys2Proof.StationRoll
open Sys2Proof.Machine Sys2Proof.Safety Sys2Proof.FibreRing

/-! ### Changes of the station state -/

theorem runs_of_inserts {c : StationState} (h : c.inserts = true) : c.runs = true := by
  rcases (inserts_iff c).mp h with rfl | rfl | rfl <;> rfl

theorem ne_start_of_inserts {c : StationState} (h : c.inserts = true) : c ≠ .start := by
  rintro rfl
  cases h

/-- The modes are read from the station state and the configuration-valid flag, the settings held and the read in progress, and
the activity of the delivery port. -/
theorem modesSound_of_same {s t : State} (h : ModesSound s) (hstate : t.ctl.state = s.ctl.state)
    (hvalid : t.ctl.configValid = s.ctl.configValid) (hsettings : t.store.settings = s.store.settings)
    (hread : t.store.readStart = s.store.readStart) (hactive : t.dlv.active = s.dlv.active) : ModesSound t := by
  unfold ModesSound State.takeOffEnabled at *
  rwa [hstate, hvalid, hsettings, hread, hactive]

theorem modesSound_of_frame {s t : State} (h : ModesSound s) (hctl : t.ctl = s.ctl) (hstore : t.store = s.store)
    (hdlv : t.dlv = s.dlv) : ModesSound t :=
  modesSound_of_same h (by rw [hctl]) (by rw [hctl]) (by rw [hstore]) (by rw [hstore]) (by rw [hdlv])

/-- The station state moves among JOINING, RUNNING and OPEN (R25, R26, R27). -/
theorem modesSound_of_inserts {s : State} {c : StationControl} (h : ModesSound s) (hs : s.ctl.state.inserts = true)
    (hc : c.state.inserts = true) (hvalid : c.configValid = s.ctl.configValid) : ModesSound { s with ctl := c } := by
  obtain ⟨hheld, -, -, hread, hactive⟩ := h
  rw [runs_of_inserts hs] at hactive
  refine ⟨fun _ => ?_, ?_, ?_, ?_, ?_⟩
  · rw [hvalid]
    exact hheld ((inserts_iff _).mp hs)
  · rintro (hstate | hstate) <;> rw [hstate] at hc <;> cases hc
  · intro hstate
    rw [hstate] at hc
    cases hc
  · exact hread.trans (iff_of_false (ne_start_of_inserts hs) (ne_start_of_inserts hc))
  · exact hactive.trans (by rw [runs_of_inserts hc]; rfl)

/-- From any state but START the station may enter DUPLICATE, where it runs with the settings that it holds (R28): from PASS_ONLY
that is with none, so that take-off stays off (log 31). -/
theorem modesSound_of_duplicate {s : State} {c : StationControl} (h : ModesSound s) (hs : s.ctl.state ≠ .start)
    (hc : c.state = .duplicate) : ModesSound { s with ctl := c } := by
  obtain ⟨-, -, hpass, hread, hactive⟩ := h
  refine ⟨?_, ?_, ?_, ?_, ?_⟩
  · rintro (hstate | hstate | hstate) <;> cases hc.symm.trans hstate
  · rintro (hstate | hstate) <;> cases hc.symm.trans hstate
  · intro hstate
    cases hc.symm.trans hstate
  · exact hread.trans (iff_of_false hs fun hstart => nomatch hc.symm.trans hstart)
  · show s.dlv.active = (c.state.runs && s.takeOffEnabled)
    rw [hactive, hc]
    cases hstate : s.ctl.state with
    | start => exact absurd hstate hs
    | passOnly => rw [State.takeOffEnabled, hpass hstate]; rfl
    | joining | running | ringOpen | duplicate => rfl

/-- What an outbound event can do to station control keeps the modes. -/
theorem modesSound_of_controlStep {s t : State} (h : ModesSound s) (hctl : ControlStep s.ctl t.ctl) (hstore : t.store = s.store)
    (hdlv : t.dlv = s.dlv) : ModesSound t := by
  have hmoved : ModesSound { s with ctl := t.ctl } := by
    rcases hctl.state with hstate | ⟨hfrom, hopen⟩
    · exact modesSound_of_same h hstate hctl.configValid rfl rfl rfl
    · exact modesSound_of_inserts h ((inserts_iff _).mpr (by tauto)) ((inserts_iff _).mpr (by tauto)) hctl.configValid
  exact modesSound_of_frame hmoved rfl hstore hdlv

/-! ### The outbound port and its requests -/

theorem outboundFree_modes {s : State} (h : ModesSound s) : ModesSound (outboundFree s) :=
  modesSound_of_controlStep h (outboundFree_ctl s) (by simp) (by simp)

theorem freeWhileIdle_modes {s : State} (h : ModesSound s) : ModesSound (freeWhileIdle s) :=
  modesSound_of_controlStep h (freeWhileIdle_ctl s) (by simp) (by simp)

theorem freeAfterSending_modes {s : State} (h : ModesSound s) : ModesSound (freeAfterSending s) := by
  unfold freeAfterSending
  split
  · exact h
  · exact outboundFree_modes h

theorem placeRequest_modes {b : ControlBody} {s : State} (h : ModesSound s) : ModesSound (placeRequest b s) :=
  modesSound_of_controlStep h (placeRequest_ctl b s) (by simp) (by simp)

theorem placeMark_modes {x : Coord} {coil : Word16} {s : State} (h : ModesSound s) : ModesSound (placeMark x coil s) :=
  modesSound_of_controlStep h (placeMark_ctl x coil s) (by simp) (by simp)

theorem reportLimiter_modes {b : Bool} {s : State} (h : ModesSound s) : ModesSound (reportLimiter b s) :=
  modesSound_of_controlStep h (reportLimiter_ctl b s) (by simp) (by simp)

theorem requestBeacon_modes {s : State} (h : ModesSound s) : ModesSound (requestBeacon s) := by
  unfold requestBeacon
  exact placeRequest_modes h

theorem recheckBeacon_modes {s : State} (h : ModesSound s) : ModesSound (recheckBeacon s) := by
  unfold recheckBeacon
  split
  · exact requestBeacon_modes h
  all_goals exact h

/-! ### Station control -/

theorem enterOpen_modes {s : State} (h : ModesSound s) : ModesSound (enterOpen s) :=
  modesSound_of_controlStep h (enterOpen_ctl s) (by simp) (by simp)

theorem enterRunning_modes {s : State} (h : ModesSound s) : ModesSound (enterRunning s) := by
  unfold enterRunning
  split
  case h_1 hs | h_2 hs => exact modesSound_of_inserts h (by rw [hs]; rfl) rfl rfl
  all_goals exact h

theorem linkDark_modes {s : State} (h : ModesSound s) : ModesSound (linkDark s) := by
  unfold linkDark
  split
  case h_1 | h_2 => exact enterOpen_modes h
  all_goals exact h

theorem linkUp_modes {s : State} (h : ModesSound s) : ModesSound (linkUp s) := by
  unfold linkUp requestSignon
  split
  case h_1 | h_2 => exact placeRequest_modes h
  all_goals exact h

theorem ownSignonReturn_modes {s : State} (h : ModesSound s) : ModesSound (ownSignonReturn s) := by
  unfold ownSignonReturn
  split
  · exact h
  · exact enterRunning_modes h

theorem ownStatusReturn_modes {p : List Byte} {s : State} (h : ModesSound s) : ModesSound (ownStatusReturn p s) := by
  unfold ownStatusReturn
  split
  · exact h
  · exact enterRunning_modes h

theorem enterDuplicate_modes {s : State} (h : ModesSound s) (hs : s.ctl.state ≠ .start) : ModesSound (enterDuplicate s) := by
  unfold enterDuplicate
  exact recheckBeacon_modes (modesSound_of_duplicate h hs rfl)

theorem duplicateSeen_modes {s : State} (h : ModesSound s) (hs : s.ctl.state ≠ .start) : ModesSound (duplicateSeen s) := by
  unfold duplicateSeen
  simp only
  split
  · exact h
  · exact enterDuplicate_modes h hs

theorem peerSignon_modes {p : List Byte} {s : State} (h : ModesSound s) : ModesSound (peerSignon p s) := by
  unfold peerSignon
  simp only
  split
  · exact h
  next hs =>
    split
    · split
      · exact h
      · exact duplicateSeen_modes h hs
    · exact h

theorem peerStatus_modes {p : List Byte} {s : State} (h : ModesSound s) : ModesSound (peerStatus p s) := by
  unfold peerStatus
  simp only
  split
  · exact h
  next hs =>
    split
    · split
      · exact h
      · exact duplicateSeen_modes h hs
    · exact h

/-! ### The ease unit and the seam unit -/

theorem renew_modes {s : State} (h : ModesSound s) : ModesSound (renew s) := by
  unfold renew requestEase
  split
  · split
    · exact h
    · exact placeRequest_modes h
  · exact h

theorem onEase_modes (f : EaseUnit → EaseUnit) {s : State} (h : ModesSound s) : ModesSound (onEase f s) := h

theorem originate_modes {s : State} (h : ModesSound s) : ModesSound (originate s) :=
  modesSound_of_frame h (by simp) (by simp) (by simp)

theorem windowExpiry_modes {s : State} (h : ModesSound s) : ModesSound (windowExpiry s) := by
  unfold windowExpiry clearWindow
  exact reportLimiter_modes (s := onEase _ _) (renew_modes (originate_modes (onEase_modes _ h)))

theorem easeOffer_modes {p : List Byte} {s : State} (h : ModesSound s) : ModesSound (easeOffer p s) := by
  unfold easeOffer
  simp only
  split
  · exact reportLimiter_modes h
  · exact h

theorem offerSeam_modes {r : SeamRecord} {s : State} (h : ModesSound s) : ModesSound (offerSeam r s) :=
  modesSound_of_frame h (by simp) (by simp) (by simp)

theorem placeCapture_modes {t : Settings} {c : Capture} {s : State} (h : ModesSound s) : ModesSound (placeCapture t c s) := by
  unfold placeCapture
  apply offerSeam_modes
  split
  · exact placeMark_modes h
  · exact h

theorem processCapture_modes {c : Capture} {s : State} (h : ModesSound s) : ModesSound (processCapture c s) := by
  unfold processCapture
  split
  · exact h
  · split
    · exact placeCapture_modes h
    · exact h

theorem processAll_modes (l : List Capture) {s : State} (h : ModesSound s) :
    ModesSound (l.foldl (fun t c => processCapture c t) s) := by
  induction l generalizing s with
  | nil => exact h
  | cons c l ih => exact ih (processCapture_modes h)

theorem seamUpdate_modes {s : State} (h : ModesSound s) : ModesSound (seamUpdate s) := by
  unfold seamUpdate
  split
  · have hall := processAll_modes (captures s.seam) (s := onSeam (fun u => { u with capture0 := none, capture1 := none }) s) h
    simp only
    split <;> exact hall
  · exact h

/-! ### The strip position unit -/

theorem encoderFault_modes {s : State} (h : ModesSound s) : ModesSound (encoderFault s) := by
  unfold encoderFault
  split
  · apply recheckBeacon_modes
    split <;> exact modesSound_of_frame h (by simp) (by simp) (by simp)
  · exact h

theorem samplePair_modes {a b : Bool} {s : State} (h : ModesSound s) : ModesSound (samplePair a b s) := by
  unfold samplePair
  simp only
  split
  · split
    case h_1 => exact h
    all_goals
      split
      · exact encoderFault_modes h
      · exact h
  · exact h

theorem returnToGood_modes {t : Settings} {s : State} (h : ModesSound s) : ModesSound (returnToGood t s) := by
  unfold returnToGood
  exact recheckBeacon_modes (modesSound_of_frame h (by simp) (by simp) (by simp))

theorem endAlignment_modes {t : Settings} {s : State} (h : ModesSound s) : ModesSound (endAlignment t s) := by
  unfold endAlignment
  exact recheckBeacon_modes h

/-! ### Cameras and the segmenter -/

theorem present_modes {i : Cam} {r : LineRecord} {s : State} (h : ModesSound s) : ModesSound (present i r s) := by
  unfold present admitLine
  simp only
  split
  · exact h
  · split
    · exact h
    · split
      · exact freeWhileIdle_modes h
      · exact h

theorem makeRecord_modes {i : Cam} {t : Tags} {d : Bool} {l : List Nat} {n : Nat} {s : State} (h : ModesSound s) :
    ModesSound (makeRecord i t d l n s) := by
  unfold makeRecord
  exact present_modes h

theorem recordLine_modes {i : Cam} {c : CameraSettings} {t : Tags} {l : LineRx} {s : State} (h : ModesSound s) :
    ModesSound (recordLine i c t l s) := by
  unfold recordLine
  split
  case h_4 => exact h
  all_goals exact makeRecord_modes h

theorem tagLine_modes {i : Cam} {c : CameraSettings} {l : LineRx} {s : State} (h : ModesSound s) :
    ModesSound (tagLine i c l s) := by
  unfold tagLine
  split
  · exact recordLine_modes h
  · split
    · exact h
    · exact recordLine_modes h

theorem completeLine_modes {i : Cam} {c : CameraSettings} {l : LineRx} {s : State} (h : ModesSound s) :
    ModesSound (completeLine i c l s) :=
  tagLine_modes (s := s.onPort i (fun p => { p with line := none, lastLength := l.count })) h

theorem updateInOrder_modes {o : UpdateOrder} {s : State} (h : ModesSound s) : ModesSound (updateInOrder o s) := by
  have hcams : ∀ {k : Fin 3} {t : State}, ModesSound t → ModesSound (camerasUpdate o k t) :=
    fun ht => modesSound_of_frame ht (by simp) (by simp) (by simp)
  have hstrip : ∀ {t : State}, ModesSound t → ModesSound (stripUpdate t) :=
    fun ht => modesSound_of_frame ht (by simp) (by simp) (by simp)
  unfold updateInOrder
  simp only
  split
  · exact hcams (hstrip (hcams (seamUpdate_modes (hcams h))))
  · exact hcams (seamUpdate_modes (hcams (hstrip (hcams h))))

theorem dropExpired_modes {i : Cam} {c : CameraSettings} (l : List TriggerRecord) {s : State} (h : ModesSound s) :
    ModesSound (dropExpired i c l s) := by
  induction l generalizing s with
  | nil => exact h
  | cons r l ih =>
    rw [dropExpired]
    split
    · apply ih
      unfold dropHead substituteLine
      simp only
      split
      · exact makeRecord_modes h
      · exact h
    · exact h

/-! ### Arrivals -/

theorem enterUp_modes {s : State} (h : ModesSound s) : ModesSound (enterUp s) :=
  linkUp_modes (s := onRing (fun r => { r with link := .up, idleRun := Config.idlesToUp }) s) h

theorem idleCharacter_modes {s : State} (h : ModesSound s) : ModesSound (idleCharacter s) := by
  unfold idleCharacter
  split
  · exact h
  · exact enterUp_modes h

theorem enterDark_modes {o : OpenParcel} {s : State} (h : ModesSound s) : ModesSound (enterDark o s) := by
  unfold enterDark
  split
  · exact h
  · exact linkDark_modes h

theorem ownReturn_modes {k : Kind} {p : List Byte} {s : State} (h : ModesSound s) : ModesSound (ownReturn k p s) := by
  cases k with
  | line => exact modesSound_of_frame h (by simp [ownReturn]) (by simp) (by simp)
  | status => exact ownStatusReturn_modes h
  | signon => exact ownSignonReturn_modes h
  | beacon | mark | ease => exact h

theorem offerPeer_modes {k : Kind} {p : List Byte} {s : State} (h : ModesSound s) : ModesSound (offerPeer k p s) := by
  cases k with
  | line | beacon | mark => exact modesSound_of_frame h (by simp [offerPeer]) (by simp) (by simp)
  | ease => exact easeOffer_modes h
  | status => exact peerStatus_modes h
  | signon => exact peerSignon_modes h

theorem forward_modes {c : List Byte} {s : State} (h : ModesSound s) : ModesSound (forward c s) := by
  unfold forward
  simp only
  split
  · exact freeWhileIdle_modes h
  · exact h

theorem processArrival_modes {r : Reception} {s : State} (h : ModesSound s) : ModesSound (processArrival r s) := by
  unfold processArrival processKnown
  split
  · split
    · split
      · split
        · exact ownReturn_modes h
        · split
          · exact h
          · exact forward_modes (offerPeer_modes h)
      · exact h
    · exact h
  · exact h

end Sys2Proof.StationRoll
end

section
/-! Every step keeps the modes sound (O58). -/
namespace Sys2Proof.StationRoll
open Sys2Proof.Machine Sys2Proof.Safety Sys2Proof.FibreRing

/-! ### START and its end -/

/-- In START the read is in progress and the delivery port is inactive, whatever settings are held (R163, R176). -/
theorem modesSound_of_start {t : State} (hstate : t.ctl.state = .start) (hvalid : t.ctl.configValid = false)
    (hread : t.store.readStart.isSome = true) (hactive : t.dlv.active = false) : ModesSound t := by
  refine ⟨?_, fun _ => hvalid, ?_, ⟨fun _ => hstate, fun _ => hread⟩, ?_⟩
  · rintro (h | h | h) <;> cases hstate.symm.trans h
  · intro h
    cases hstate.symm.trans h
  · rw [hactive, hstate]
    rfl

/-- A read in progress is that of START, with the configuration-valid flag clear and the delivery port inactive. -/
theorem start_of_reading {s : State} {b : Time} (h : ModesSound s) (hb : s.store.readStart = some b) :
    s.ctl.configValid = false ∧ s.dlv.active = false := by
  obtain ⟨-, hclear, -, hread, hactive⟩ := h
  have hstart : s.ctl.state = .start := hread.mp (by rw [hb]; rfl)
  rw [hactive, hstart]
  exact ⟨hclear (.inl hstart), rfl⟩

theorem modesSound_passOnlyStation {s : State} (hvalid : s.ctl.configValid = false) (hactive : s.dlv.active = false) :
    ModesSound (passOnlyStation s) := by
  refine ⟨?_, fun _ => hvalid, fun _ => rfl, ⟨nofun, nofun⟩, hactive⟩
  rintro (h | h | h) <;> cases h

theorem modesSound_joiningStation (s : State) : ModesSound (joiningStation s) := by
  obtain ⟨-, -, -, -, hctl, -, -, -, -, hdlv, -, hstore⟩ := joiningStation_rest s
  unfold ModesSound State.takeOffEnabled
  rw [hctl, hdlv, hstore]
  refine ⟨fun _ => ⟨rfl, rfl⟩, ?_, nofun, ⟨nofun, nofun⟩, rfl⟩
  rintro (h | h) <;> cases h

theorem enterPassOnly_modes {s : State} {b : Time} (h : ModesSound s) (hb : s.store.readStart = some b) :
    ModesSound (enterPassOnly (finishRead s)) := by
  obtain ⟨hvalid, hactive⟩ := start_of_reading h hb
  have hstation := modesSound_passOnlyStation hvalid hactive
  rw [enterPassOnly_finishRead]
  apply placeRequest_modes
  split
  · exact placeRequest_modes hstation
  · exact hstation

theorem enterJoining_modes (s : State) : ModesSound (enterJoining (takeSettings (finishRead s))) := by
  have hstation := modesSound_joiningStation s
  have hrequests : ModesSound (requestStatus (if s.ring.link = .up then
      requestSignon { joiningStation s with ctl := { (joiningStation s).ctl with signonTimer := some s.time } }
    else joiningStation s)) := by
    unfold requestStatus requestSignon
    apply placeRequest_modes
    split
    · exact placeRequest_modes hstation
    · exact hstation
  rw [enterJoining_takeSettings]
  simp only
  split
  · exact enterOpen_modes hrequests
  · exact hrequests

/-! ### Every command and the idle step -/

/-- The outcome is a next state whose modes are sound. -/
def NextModes (o : Host.Outcome State Fault Refusal) : Prop := ∃ t, o = .next t ∧ ModesSound t

theorem nextModes {t : State} (h : ModesSound t) : NextModes (.next t) := ⟨t, rfl, h⟩

/-- An event that acts under a condition, and else changes nothing. -/
theorem nextModes_ite {b : Prop} [Decidable b] {s t : State} (h : ModesSound s) (ht : b → ModesSound t) :
    NextModes (.next (if b then t else s)) := by
  split
  next hb => exact nextModes (ht hb)
  next => exact nextModes h

theorem eepromReadComplete_modes {s : State} (h : ModesSound s) : NextModes (exec .eepromReadComplete s) := by
  cases hb : s.store.readStart with
  | none =>
    rw [exec_eepromReadComplete_of_early fun b hs => (nomatch hb.symm.trans hs)]
    exact nextModes h
  | some b =>
    rcases Nat.lt_or_ge (s.time - b).toNat 20000 with hearly | hover
    · rw [exec_eepromReadComplete_of_early fun c hc => by cases hb.symm.trans hc; exact hearly]
      exact nextModes h
    · rw [exec_eepromReadComplete_of_over hb hover]
      split
      · exact nextModes (enterJoining_modes s)
      · exact nextModes (enterPassOnly_modes h hb)

theorem sendCompletion_modes {s : State} (h : ModesSound s) : NextModes (execSendCompletion s) := by
  unfold execSendCompletion
  split
  · exact nextModes h
  · exact nextModes_ite h fun _ => freeAfterSending_modes h

theorem signonTimerExpiry_modes {s : State} (h : ModesSound s) : NextModes (execSignonTimerExpiry s) := by
  unfold execSignonTimerExpiry requestSignon
  split
  · exact nextModes h
  · exact nextModes_ite h fun _ => placeRequest_modes h

theorem statusTimerExpiry_modes {s : State} (h : ModesSound s) : NextModes (execStatusTimerExpiry s) := by
  unfold execStatusTimerExpiry requestStatus
  split
  · exact nextModes h
  · exact nextModes_ite h fun _ => placeRequest_modes h

theorem beaconTimerExpiry_modes {s : State} (h : ModesSound s) : NextModes (execBeaconTimerExpiry s) := by
  unfold execBeaconTimerExpiry
  split
  · exact nextModes h
  · exact nextModes_ite h fun _ => requestBeacon_modes h

theorem indexPulse_modes {s : State} (h : ModesSound s) : NextModes (execIndexPulse s) := by
  unfold execIndexPulse
  split <;> exact nextModes h

theorem cleanExpiry_modes {s : State} (h : ModesSound s) : NextModes (execCleanExpiry s) := by
  refine nextModes_ite h fun _ => ?_
  split
  · exact returnToGood_modes h
  · exact h

theorem staleExpiry_modes {n : Station} {s : State} (h : ModesSound s) : NextModes (execStaleExpiry n s) := by
  refine nextModes_ite h fun _ => ?_
  simp only
  split
  · exact modesSound_of_frame h (by simp) (by simp) (by simp)
  · exact h

theorem removalExpiry_modes {n : Station} {s : State} (h : ModesSound s) : NextModes (execRemovalExpiry n s) := by
  refine nextModes_ite h fun _ => ?_
  simp only
  split
  · exact modesSound_of_frame h (by simp) (by simp) (by simp)
  · exact h

theorem alignmentEnd_modes {s : State} (h : ModesSound s) : NextModes (execAlignmentEnd s) := by
  refine nextModes_ite h fun _ => ?_
  split
  · exact endAlignment_modes h
  · exact h

theorem seamEdge_modes {s : State} (h : ModesSound s) : NextModes (execSeamEdge s) := by
  unfold execSeamEdge
  split
  · exact nextModes h
  · split
    · split <;> exact nextModes h
    · exact nextModes h

theorem triggerTimeout_modes {i : Cam} {s : State} (h : ModesSound s) : NextModes (execTriggerTimeout i s) := by
  refine nextModes_ite h fun _ => ?_
  split
  · exact dropExpired_modes _ h
  · exact h

theorem lineValidRise_modes {i : Cam} {s : State} (h : ModesSound s) : NextModes (execLineValidRise i s) := by
  unfold execLineValidRise
  split <;> exact nextModes h

theorem lineCompletion_modes {i : Cam} {l : List (BitVec 12)} {s : State} (h : ModesSound s) :
    NextModes (execLineCompletion i l s) := by
  refine nextModes_ite h fun _ => ?_
  simp only
  split
  · split
    · exact completeLine_modes h
    · exact h
  · exact h

theorem easeWindowExpiry_modes {s : State} (h : ModesSound s) : NextModes (execEaseWindowExpiry s) := by
  unfold execEaseWindowExpiry
  exact nextModes_ite h fun _ => windowExpiry_modes (onEase_modes _ h)

theorem assemblyTimeout_modes {k : Fin 32} {s : State} (h : ModesSound s) : NextModes (execAssemblyTimeout k s) := by
  refine nextModes_ite h fun _ => ?_
  split <;> exact h

theorem dlvTake_modes {s : State} (h : ModesSound s) : NextModes (execDlvTake s) := by
  refine nextModes_ite h fun _ => ?_
  split
  · split <;> exact h
  · exact h

theorem nop_modes {arg : BitVec 12} {s : State} (h : ModesSound s) : NextModes (execNop arg s) := by
  unfold execNop
  simp only
  split <;> exact nextModes h

theorem roll_modes {arg : BitVec 12} {s : State} (h : ModesSound s) : NextModes (execRoll arg s) := by
  unfold execRoll
  simp only
  split <;> exact nextModes h

theorem eeaddr_modes {arg : BitVec 12} {s : State} (h : ModesSound s) : NextModes (execEeaddr arg s) := by
  unfold execEeaddr
  simp only
  split <;> exact nextModes h

theorem eewrite_modes {arg : BitVec 12} {s : State} (h : ModesSound s) : NextModes (execEewrite arg s) := by
  unfold execEewrite
  simp only
  split
  · exact nextModes h
  · split <;> exact nextModes h

theorem restart_modes {arg : BitVec 12} {straps : Station} {o : OpenParcel} {s : State} (h : ModesSound s) :
    NextModes (execRestart arg straps o s) := by
  unfold execRestart
  simp only
  split
  · exact nextModes h
  · exact nextModes (modesSound_of_start rfl rfl rfl rfl)

theorem eepromWriteCompletion_modes {s : State} (h : ModesSound s) : NextModes (execEepromWriteCompletion s) := by
  unfold execEepromWriteCompletion
  split <;> exact nextModes h

theorem syncingCharacter_modes {c : CharClass} {s : State} (h : ModesSound s) : NextModes (execSyncingCharacter c s) := by
  refine nextModes_ite h fun _ => ?_
  split
  · exact idleCharacter_modes h
  all_goals exact h

/-- Every command keeps the modes sound. -/
theorem exec_modes (c : Instr) {s : State} (h : ModesSound s) : NextModes (exec c s) := by
  cases c with
  | powerOnReset => exact nextModes (modesSound_of_start rfl rfl rfl rfl)
  | lightAndLock => exact nextModes h
  | lossOfLightOrLock => exact nextModes (enterDark_modes h)
  | inboundUp => exact nextModes_ite h fun _ => enterUp_modes h
  | partialDrop => exact nextModes_ite h fun _ => h
  | parcelArrival => exact nextModes_ite h fun _ => processArrival_modes h
  | sendCompletion => exact sendCompletion_modes h
  | alignmentRunEnd => exact nextModes_ite h fun _ => outboundFree_modes h
  | eepromReadComplete => exact eepromReadComplete_modes h
  | signonTimerExpiry => exact signonTimerExpiry_modes h
  | statusTimerExpiry => exact statusTimerExpiry_modes h
  | returnWatchExpiry => exact nextModes_ite h fun _ => enterOpen_modes h
  | clashExpiry => exact nextModes_ite h fun _ => h
  | silenceExpiry => exact nextModes_ite h fun _ => h
  | encoderSample => exact nextModes (samplePair_modes h)
  | indexPulse => exact indexPulse_modes h
  | cleanExpiry => exact cleanExpiry_modes h
  | coordinateUpdate => exact nextModes_ite h fun _ => updateInOrder_modes h
  | speedWindowExpiry => exact nextModes_ite h fun _ => h
  | beaconTimerExpiry => exact beaconTimerExpiry_modes h
  | staleExpiry => exact staleExpiry_modes h
  | removalExpiry => exact removalExpiry_modes h
  | alignmentEnd => exact alignmentEnd_modes h
  | seamEdge => exact seamEdge_modes h
  | triggerPulseEnd => exact nextModes_ite h fun _ => h
  | lastTriggerTimeLapse => exact nextModes_ite h fun _ => h
  | triggerTimeout => exact triggerTimeout_modes h
  | lineValidRise => exact lineValidRise_modes h
  | lineCompletion => exact lineCompletion_modes h
  | darkExpiry => exact nextModes_ite h fun _ => h
  | easeWindowExpiry => exact easeWindowExpiry_modes h
  | easeEntryExpiry => exact nextModes_ite h fun _ => reportLimiter_modes h
  | assemblyTimeout => exact assemblyTimeout_modes h
  | dlvTake => exact dlvTake_modes h
  | dlvCut => exact nextModes_ite h fun _ => h
  | dlvHold => exact nextModes h
  | incompleteFrame => exact nextModes h
  | nop => exact nop_modes h
  | item => exact nextModes h
  | high => exact nextModes h
  | roll => exact roll_modes h
  | eeaddr => exact eeaddr_modes h
  | eelo => exact nextModes h
  | eehi => exact nextModes h
  | eewrite => exact eewrite_modes h
  | eeread => exact nextModes h
  | clear => exact nextModes h
  | restart => exact restart_modes h
  | unknownCommand => exact nextModes h
  | eepromWriteCompletion => exact eepromWriteCompletion_modes h
  | syncingCharacter => exact syncingCharacter_modes h

theorem idleStep_modes {s : State} (h : ModesSound s) : ModesSound (idleStep s) := by
  unfold idleStep
  split
  · unfold tick readOn
    split <;> exact h
  all_goals exact h

/-- Settles O58: every command and the idle step keep the modes sound. -/
theorem stepsKeepTheModes : Obligations.StepsKeepTheModes := by
  intro s t hs hstep
  unfold step at hstep
  split at hstep
  next => cases hstep; exact idleStep_modes hs
  next c rest _ =>
    obtain ⟨u, hu, hmodes⟩ := exec_modes c (s := { s with pending := rest }) hs
    cases hstep.symm.trans hu
    exact hmodes

end Sys2Proof.StationRoll
end

section
/-! What each operation of the strip position unit does to the clock, the encoder, the position source, the followed entry and the
beacon table (Section 3), for every proof about the unit. -/
namespace Sys2Proof.StripPosition
open Sys2Proof.Machine Sys2Proof.Safety Sys2Proof.FibreRing Sys2Proof.StationRoll

/-! ### The source and the fallback marks (R61, R93) -/

/-- Every camera with a source change pending (R91). -/
def sourceChanged (cams : Vector Camera 4) : Vector Camera 4 :=
  each (fun c => { c with trig := { c.trig with sourceChange := true } }) cams

/-- Every camera with the fallback mark that R93 gives it at a station in `s`. -/
def fallbackMarked (s : State) : Vector Camera 4 :=
  Vector.ofFn (fun i : Cam => if s.ctl.state.runs = true ∧ s.camEnabled i = true then
      { s.cams[i] with trig := { s.cams[i].trig with fallbackMark := s.cams[i].trig.lastTrigger } }
    else s.cams[i])

theorem setSource_of_same {p : PositionSource} {s : State} (h : s.strip.source = .none ∨ s.strip.source = p) :
    setSource p s = { s with strip := { s.strip with source := p } } := if_pos h

theorem setSource_of_other {p : PositionSource} {s : State} (hnone : s.strip.source ≠ .none) (hother : s.strip.source ≠ p) :
    setSource p s = { s with
      strip := { s.strip with source := p, sourceSwitches := satInc s.strip.sourceSwitches },
      cams := sourceChanged s.cams } := if_neg (not_or.mpr ⟨hnone, hother⟩)

/-- From no source, or from the entry's own station, an entry is followed with no SOURCE_CHANGE (R57, R61). -/
theorem follow_of_same {n : Station} {s : State} (h : s.strip.source = .none ∨ s.strip.source = .station n) :
    follow n s = { s with strip := { s.strip with
      clock := .following, followed := some n, vs := s.strip.table[n].speed, source := .station n } } :=
  setSource_of_same (s := onStrip _ s) h

/-- From another source, an entry is followed with a SOURCE_CHANGE (R57, R61). -/
theorem follow_of_other {n : Station} {s : State} (hnone : s.strip.source ≠ .none) (hother : s.strip.source ≠ .station n) :
    follow n s = { s with
      strip := { s.strip with
        clock := .following, followed := some n, vs := s.strip.table[n].speed, source := .station n,
        sourceSwitches := satInc s.strip.sourceSwitches },
      cams := sourceChanged s.cams } :=
  setSource_of_other (s := onStrip _ s) hnone hother

theorem markFallback_eq (s : State) : markFallback s = { s with cams := fallbackMarked s } := by
  cases hruns : s.ctl.state.runs with
  | true =>
    have hmark : #v[markFallback.mark s 0, markFallback.mark s 1, markFallback.mark s 2, markFallback.mark s 3]
        = fallbackMarked s := by
      ext i hi
      have hget := cams_get (markFallback.mark s) ⟨i, hi⟩
      simp only [fallbackMarked, hruns, true_and, Vector.getElem_ofFn]
      exact hget
    rw [markFallback, if_pos hruns, hmark]
  | false =>
    have hcams : fallbackMarked s = s.cams := by
      ext i hi
      simp [fallbackMarked, hruns]
    rw [markFallback, if_neg (by simp [hruns]), hcams]

theorem enterHeld_eq (s : State) : enterHeld s = { s with
    strip := { s.strip with clock := .held, followed := none }, cams := fallbackMarked s } :=
  markFallback_eq _

/-! ### The best FRESH entry (R58, R62, R65) -/

/-- Entry `n` comes before entry `m`: it has fewer hops used, or as many and a station number that is not higher. -/
def Precedes (t : Vector BeaconEntry 16) (n m : Station) : Prop :=
  t[n].hopsUsed.toNat < t[m].hopsUsed.toNat ∨ (t[n].hopsUsed = t[m].hopsUsed ∧ n ≤ m)

theorem precedes_iff (t : Vector BeaconEntry 16) (n m : Station) : Precedes t n m ↔
    t[n].hopsUsed.toNat < t[m].hopsUsed.toNat ∨ (t[n].hopsUsed.toNat = t[m].hopsUsed.toNat ∧ n.val ≤ m.val) := by
  rw [Precedes, BitVec.toNat_inj, Fin.le_def]

theorem Precedes.refl (t : Vector BeaconEntry 16) (n : Station) : Precedes t n n := .inr ⟨rfl, le_rfl⟩

theorem Precedes.trans {t : Vector BeaconEntry 16} {n m k : Station} (h : Precedes t n m) (g : Precedes t m k) :
    Precedes t n k := by
  rw [precedes_iff] at *
  omega

theorem Precedes.antisymm {t : Vector BeaconEntry 16} {n m : Station} (h : Precedes t n m) (g : Precedes t m n) : n = m := by
  rw [precedes_iff] at *
  exact Fin.ext (by omega)

/-- The first of the FRESH entries of the stations of `l`. -/
def Best (t : Vector BeaconEntry 16) (l : List Station) (n : Station) : Prop :=
  n ∈ l ∧ t[n].condition = .fresh ∧ ∀ m ∈ l, t[m].condition = .fresh → Precedes t n m

/-- What the choice of an entry says of the stations of a list. -/
def ChosenFrom (t : Vector BeaconEntry 16) (l : List Station) : Option Station → Prop
  | none => ∀ m ∈ l, t[m].condition ≠ .fresh
  | some n => Best t l n

theorem chosenFrom_cons_of_not_fresh {t : Vector BeaconEntry 16} {n : Station} {l : List Station} {o : Option Station}
    (h : ChosenFrom t l o) (hn : t[n].condition ≠ .fresh) : ChosenFrom t (n :: l) o := by
  cases o with
  | none => exact List.forall_mem_cons.mpr ⟨hn, h⟩
  | some m =>
    obtain ⟨hmem, hfresh, hall⟩ := h
    exact ⟨.tail n hmem, hfresh, List.forall_mem_cons.mpr ⟨fun hf => absurd hf hn, hall⟩⟩

theorem fewestHops_chosen (t : Vector BeaconEntry 16) {l : List Station} (hl : l.Pairwise (· < ·)) :
    ChosenFrom t l (fewestHops t l) := by
  induction l with
  | nil => exact nofun
  | cons n l ih =>
    obtain ⟨hlow, hl⟩ := List.pairwise_cons.mp hl
    have ih := ih hl
    rw [fewestHops]
    split
    next hnone =>
      rw [hnone] at ih
      split
      next hfresh =>
        exact ⟨.head l, hfresh, List.forall_mem_cons.mpr ⟨fun _ => .refl t n, fun m hm hf => absurd hf (ih m hm)⟩⟩
      next hstale => exact chosenFrom_cons_of_not_fresh (o := none) ih hstale
    next k hk =>
      rw [hk] at ih
      obtain ⟨hmem, hfresh, hall⟩ := ih
      have hnk : n.val < k.val := hlow k hmem
      split
      next hle =>
        have hfirst : Precedes t n k := by
          rw [precedes_iff]
          omega
        exact ⟨.head l, hle.1, List.forall_mem_cons.mpr ⟨fun _ => .refl t n, fun m hm hf => hfirst.trans (hall m hm hf)⟩⟩
      next hgt =>
        refine ⟨.tail n hmem, hfresh, List.forall_mem_cons.mpr ⟨fun hf => ?_, hall⟩⟩
        have hless : ¬ t[n].hopsUsed.toNat ≤ t[k].hopsUsed.toNat := fun hle => hgt ⟨hf, hle⟩
        exact .inl (by omega)

theorem Best.unique {t : Vector BeaconEntry 16} {l : List Station} {n m : Station} (h : Best t l n) (g : Best t l m) : n = m :=
  (h.2.2 m g.1 g.2.1).antisymm (g.2.2 n h.1 h.2.1)

theorem fewestHops_eq_some_iff {t : Vector BeaconEntry 16} {l : List Station} (hl : l.Pairwise (· < ·)) (n : Station) :
    fewestHops t l = some n ↔ Best t l n := by
  have hchosen := fewestHops_chosen t hl
  cases hbest : fewestHops t l with
  | none =>
    rw [hbest] at hchosen
    exact ⟨nofun, fun ⟨hmem, hfresh, _⟩ => absurd hfresh (hchosen n hmem)⟩
  | some m =>
    rw [hbest] at hchosen
    exact ⟨fun h => by cases h; exact hchosen, fun h => congrArg some (Best.unique hchosen h)⟩

theorem fewestHops_eq_none_iff {t : Vector BeaconEntry 16} {l : List Station} (hl : l.Pairwise (· < ·)) :
    fewestHops t l = none ↔ ∀ m ∈ l, t[m].condition ≠ .fresh := by
  have hchosen := fewestHops_chosen t hl
  cases hbest : fewestHops t l with
  | none =>
    rw [hbest] at hchosen
    exact ⟨fun _ => hchosen, fun _ => rfl⟩
  | some m =>
    rw [hbest] at hchosen
    exact ⟨nofun, fun h => absurd hchosen.2.1 (h m hchosen.1)⟩

/-- Only the entries of the stations of the list are read. -/
theorem fewestHops_congr {t u : Vector BeaconEntry 16} {l : List Station} (hl : l.Pairwise (· < ·))
    (h : ∀ m ∈ l, t[m] = u[m]) : fewestHops t l = fewestHops u l := by
  induction l with
  | nil => rfl
  | cons n l ih =>
    obtain ⟨hn, hrest⟩ := List.forall_mem_cons.mp h
    obtain ⟨-, hl⟩ := List.pairwise_cons.mp hl
    rw [fewestHops, fewestHops, ih hl hrest, hn]
    split
    · rfl
    next m hm =>
      have hmem : m ∈ l := ((fewestHops_eq_some_iff hl m).mp hm).1
      rw [hrest m hmem]

theorem bestFresh_eq_some_iff (t : Vector BeaconEntry 16) (n : Station) :
    bestFresh t = some n ↔ t[n].condition = .fresh ∧ ∀ m : Station, t[m].condition = .fresh → Precedes t n m := by
  rw [bestFresh, fewestHops_eq_some_iff (List.pairwise_lt_finRange 16)]
  simp only [Best, List.mem_finRange, true_and, true_implies]

theorem bestFresh_eq_none_iff (t : Vector BeaconEntry 16) : bestFresh t = none ↔ ∀ m : Station, t[m].condition ≠ .fresh := by
  rw [bestFresh, fewestHops_eq_none_iff (List.pairwise_lt_finRange 16)]
  simp only [List.mem_finRange, true_implies]

theorem mem_others (k m : Station) : m ∈ (List.finRange 16).filter (fun m => m != k) ↔ m ≠ k := by
  simp only [List.mem_filter, List.mem_finRange, true_and, bne_iff_ne]

theorem others_ordered (k : Station) : ((List.finRange 16).filter (fun m => m != k)).Pairwise (· < ·) :=
  (List.pairwise_lt_finRange 16).filter _

theorem bestFreshBut_eq_some_iff (t : Vector BeaconEntry 16) (k n : Station) :
    bestFreshBut t k = some n ↔
      n ≠ k ∧ t[n].condition = .fresh ∧ ∀ m : Station, m ≠ k → t[m].condition = .fresh → Precedes t n m := by
  rw [bestFreshBut, fewestHops_eq_some_iff (others_ordered k)]
  simp only [Best, mem_others]

theorem bestFreshBut_eq_none_iff (t : Vector BeaconEntry 16) (k : Station) :
    bestFreshBut t k = none ↔ ∀ m : Station, m ≠ k → t[m].condition ≠ .fresh := by
  rw [bestFreshBut, fewestHops_eq_none_iff (others_ordered k)]
  simp only [mem_others]

/-- The entry left out is not read (R58). -/
theorem bestFreshBut_put (t : Vector BeaconEntry 16) (k : Station) (e : BeaconEntry) :
    bestFreshBut (put t k e) k = bestFreshBut t k :=
  fewestHops_congr (others_ordered k) fun m hm => put_other t k m e ((mem_others k m).mp hm).symm

/-- Settles O38, by what a choice says of the list it is made from. -/
theorem fewestHopsAreFollowed : Obligations.FewestHopsAreFollowed := fun t n =>
  ⟨bestFresh_eq_some_iff t n, bestFresh_eq_none_iff t,
    fun k => ⟨bestFreshBut_eq_some_iff t k n, bestFreshBut_eq_none_iff t k⟩⟩

end Sys2Proof.StripPosition
end

section
/-! What the strip clock state says of the encoder, the position source and the followed entry, and that every operation keeps it
(Table 3.8). -/
namespace Sys2Proof.StripPosition
open Sys2Proof.Machine Sys2Proof.Safety Sys2Proof.FibreRing Sys2Proof.StationRoll

/-! ### The part of the state that the clock is about -/

/-- The registers of the strip position unit that the soundness of the clock is about. -/
structure ClockView where
  clock : ClockState
  encoder : EncoderState
  followed : Option Station
  source : PositionSource
  table : Vector BeaconEntry 16

/-- The clock of a strip position unit, and what it says of. -/
def clockOf (u : StripUnit) : ClockView :=
  { clock := u.clock, encoder := u.encoder, followed := u.followed, source := u.source, table := u.table }

theorem clockSound_of_same {s t : State} (h : ClockSound s) (heq : clockOf t.strip = clockOf s.strip) : ClockSound t := by
  obtain ⟨hclock, hencoder, hfollowed, hsource, htable⟩ := ClockView.mk.inj heq
  unfold ClockSound at *
  rwa [hclock, hencoder, hfollowed, hsource, htable]

theorem clockSound_of_strip {s t : State} (h : ClockSound s) (heq : t.strip = s.strip) : ClockSound t :=
  clockSound_of_same h (congrArg clockOf heq)

/-! ### The four cases of Table 3.8 -/

theorem clockSound_of_loc {s : State} (hclock : s.strip.clock = .loc) (hencoder : s.strip.encoder = .good)
    (hfollowed : s.strip.followed = none) (hsource : s.strip.source = .loc) : ClockSound s := by
  rw [ClockSound, hclock]
  exact ⟨hencoder, hfollowed, hsource⟩

theorem clockSound_of_quiet {s : State} (hclock : s.strip.clock = .none ∨ s.strip.clock = .held)
    (hencoder : s.strip.encoder ≠ .good) (hfollowed : s.strip.followed = none) : ClockSound s := by
  rcases hclock with hclock | hclock <;> rw [ClockSound, hclock] <;> exact ⟨hencoder, hfollowed⟩

theorem clockSound_of_following {s : State} (n : Station) (hclock : s.strip.clock = .following)
    (hencoder : s.strip.encoder ≠ .good) (hfollowed : s.strip.followed = some n) (hsource : s.strip.source = .station n)
    (hfresh : s.strip.table[n].condition = .fresh) : ClockSound s := by
  rw [ClockSound, hclock]
  exact ⟨hencoder, n, hfollowed, hsource, hfresh⟩

theorem clockSound_of_coasting {s : State} (n : Station) (hclock : s.strip.clock = .coasting)
    (hencoder : s.strip.encoder ≠ .good) (hfollowed : s.strip.followed = some n) (hsource : s.strip.source = .station n)
    (hstale : s.strip.table[n].condition = .stale) : ClockSound s := by
  rw [ClockSound, hclock]
  exact ⟨hencoder, n, hfollowed, hsource, hstale⟩

theorem encoder_ne_good_of_sound {s : State} (h : ClockSound s) (hclock : s.strip.clock ≠ .loc) :
    s.strip.encoder ≠ .good := by
  unfold ClockSound at h
  split at h
  next hloc => exact absurd hloc hclock
  all_goals exact h.1

/-- A followed entry is the source, FRESH in FOLLOWING and STALE in COASTING. -/
theorem followed_of_sound {s : State} {n : Station} (h : ClockSound s) (hn : s.strip.followed = some n) :
    s.strip.encoder ≠ .good ∧ s.strip.source = .station n
      ∧ ((s.strip.clock = .following ∧ s.strip.table[n].condition = .fresh)
        ∨ (s.strip.clock = .coasting ∧ s.strip.table[n].condition = .stale)) := by
  unfold ClockSound at h
  split at h
  next => exact nomatch hn.symm.trans h.2.1
  next => exact nomatch hn.symm.trans h.2
  next => exact nomatch hn.symm.trans h.2
  next hclock =>
    obtain ⟨hencoder, m, hm, hsource, hfresh⟩ := h
    cases hn.symm.trans hm
    exact ⟨hencoder, hsource, .inl ⟨hclock, hfresh⟩⟩
  next hclock =>
    obtain ⟨hencoder, m, hm, hsource, hstale⟩ := h
    cases hn.symm.trans hm
    exact ⟨hencoder, hsource, .inr ⟨hclock, hstale⟩⟩

/-! ### The operations of the unit -/

theorem follow_clock {n : Station} {s : State} (hencoder : s.strip.encoder ≠ .good)
    (hfresh : s.strip.table[n].condition = .fresh) : ClockSound (follow n s) := by
  by_cases hsame : s.strip.source = .none ∨ s.strip.source = .station n
  · rw [follow_of_same hsame]
    exact clockSound_of_following n rfl hencoder rfl rfl hfresh
  · obtain ⟨hnone, hother⟩ := not_or.mp hsame
    rw [follow_of_other hnone hother]
    exact clockSound_of_following n rfl hencoder rfl rfl hfresh

theorem enterHeld_clock {s : State} (hencoder : s.strip.encoder ≠ .good) : ClockSound (enterHeld s) := by
  rw [enterHeld_eq]
  exact clockSound_of_quiet (.inr rfl) hencoder rfl

theorem recheckBeacon_clock {s : State} (h : ClockSound s) : ClockSound (recheckBeacon s) := by
  unfold recheckBeacon requestBeacon
  split
  · exact clockSound_of_same h (by rw [(placeRequest_rest _ _).2.2.1]; rfl)
  all_goals exact h

/-- A GOOD encoder that has failed leaves LOCAL, the one clock state that it has (R62). -/
theorem encoderFault_clock {s : State} (hclock : s.strip.clock = .loc) (hencoder : s.strip.encoder = .fault) :
    ClockSound (encoderFault s) := by
  have hbad : s.strip.encoder ≠ .good := by simp [hencoder]
  rw [encoderFault, if_pos hclock]
  apply recheckBeacon_clock
  split
  next n hn => exact follow_clock hbad ((bestFresh_eq_some_iff _ n).mp hn).1
  next => exact enterHeld_clock hbad

theorem samplePair_clock {a b : Bool} {s : State} (h : ClockSound s) : ClockSound (samplePair a b s) := by
  unfold samplePair
  simp only
  split
  · split
    next => exact h
    next hgood =>
      split
      next =>
        have hloc : s.strip.clock = .loc := by
          by_contra hclock
          exact encoder_ne_good_of_sound h hclock hgood
        exact encoderFault_clock hloc rfl
      next => exact h
    next hfault =>
      split
      next hdue => simp [hfault] at hdue
      next => exact h
  · exact h

theorem returnToGood_clock (t : Settings) (s : State) : ClockSound (returnToGood t s) := by
  unfold returnToGood
  apply recheckBeacon_clock
  unfold setSource
  simp only
  split <;> exact clockSound_of_loc rfl rfl rfl rfl

theorem endAlignment_clock {t : Settings} {s : State} (h : ClockSound s) : ClockSound (endAlignment t s) := by
  unfold endAlignment
  exact recheckBeacon_clock h

theorem stripUpdate_clock {s : State} (h : ClockSound s) : ClockSound (stripUpdate s) := by
  refine clockSound_of_same h ?_
  unfold stripUpdate
  simp only
  split <;> rfl

/-! ### The beacon table -/

/-- The table matters to the clock in the condition of the followed entry alone. -/
theorem clockSound_of_table {s : State} {t : Vector BeaconEntry 16} (h : ClockSound s)
    (hsame : ∀ n, s.strip.followed = some n → t[n].condition = s.strip.table[n].condition) :
    ClockSound { s with strip := { s.strip with table := t } } := by
  cases hclock : s.strip.clock <;> rw [ClockSound, hclock] at h
  case loc =>
    obtain ⟨hencoder, hfollowed, hsource⟩ := h
    exact clockSound_of_loc hclock hencoder hfollowed hsource
  case none | held =>
    obtain ⟨hencoder, hfollowed⟩ := h
    exact clockSound_of_quiet (by simp [hclock]) hencoder hfollowed
  case following =>
    obtain ⟨hencoder, n, hn, hsource, hfresh⟩ := h
    exact clockSound_of_following n hclock hencoder hn hsource ((hsame n hn).trans hfresh)
  case coasting =>
    obtain ⟨hencoder, n, hn, hsource, hstale⟩ := h
    exact clockSound_of_coasting n hclock hencoder hn hsource ((hsame n hn).trans hstale)

theorem put_condition {t : Vector BeaconEntry 16} {n m : Station} {e : BeaconEntry} (h : n = m → e.condition = t[m].condition) :
    (put t n e)[m].condition = t[m].condition := by
  rw [put_get]
  split
  next hm => exact h hm
  next => rfl

/-- A written entry is followed, feeds the following, or leaves the clock as it was (R57). -/
theorem afterEntryWrite_clock {n : Station} {s : State} (hencoder : s.strip.clock ≠ .loc → s.strip.encoder ≠ .good)
    (hfresh : s.strip.table[n].condition = .fresh) (h : s.strip.clock ≠ .coasting → ClockSound s) :
    ClockSound (afterEntryWrite n s) := by
  unfold afterEntryWrite
  split
  case h_1 hclock => exact h (by simp [hclock])
  case h_2 hclock | h_3 hclock | h_4 hclock => exact follow_clock (hencoder (by simp [hclock])) hfresh
  case h_5 hclock =>
    have hsound := h (by simp [hclock])
    split <;> exact hsound

theorem beaconOffer_clock {p : List Byte} {s : State} (h : ClockSound s) : ClockSound (beaconOffer p s) := by
  unfold beaconOffer
  simp only
  split
  next =>
    refine afterEntryWrite_clock (fun hclock => encoder_ne_good_of_sound (s := s) h hclock) ?_ fun hcoast => ?_
    · exact congrArg BeaconEntry.condition (put_self _ _ _)
    · refine clockSound_of_table h fun m hm => put_condition fun _ => ?_
      obtain ⟨-, -, ⟨-, hfresh⟩ | ⟨hclock, -⟩⟩ := followed_of_sound h hm
      · exact hfresh.symm
      · exact absurd hclock hcoast
  next => exact h

/-- An entry that has gone STALE is no longer followed in FOLLOWING (R55, R58). -/
theorem staleEntry_clock {n : Station} {s : State} (h : ClockSound s) :
    ClockSound (
      let s1 := onStrip (fun u => { u with table := change u.table n (fun e => { e with condition := .stale }) }) s
      if s.strip.clock = .following ∧ s.strip.followed = some n then followedStale n s1 else s1) := by
  simp only
  split
  next hfollowing =>
    obtain ⟨hclock, hfollowed⟩ := hfollowing
    obtain ⟨hencoder, hsource, -⟩ := followed_of_sound h hfollowed
    unfold followedStale
    split
    next m hm =>
      obtain ⟨-, hfresh, -⟩ := (bestFreshBut_eq_some_iff _ n m).mp hm
      exact follow_clock hencoder hfresh
    next => exact clockSound_of_coasting n rfl hencoder hfollowed hsource (congrArg BeaconEntry.condition (put_self _ _ _))
  next hother =>
    refine clockSound_of_table h fun m hm => put_condition fun hnm => ?_
    subst hnm
    obtain ⟨-, -, ⟨hclock, -⟩ | ⟨-, hstale⟩⟩ := followed_of_sound h hm
    · exact absurd ⟨hclock, hm⟩ hother
    · exact hstale.symm

/-- A STALE entry is followed in COASTING or not at all, and its removal ends the coasting (R55, R59). -/
theorem removedEntry_clock {n : Station} {s : State} (h : ClockSound s) (hn : s.strip.table[n].condition = .stale) :
    ClockSound (
      let s1 := onStrip (fun u => { u with table := put u.table n BeaconEntry.blank }) s
      if s.strip.clock = .coasting ∧ s.strip.followed = some n then enterHeld s1 else s1) := by
  simp only
  split
  next hcoasting =>
    obtain ⟨hencoder, -, -⟩ := followed_of_sound h hcoasting.2
    exact enterHeld_clock hencoder
  next hother =>
    refine clockSound_of_table h fun m hm => put_condition fun hnm => ?_
    subst hnm
    obtain ⟨-, -, ⟨-, hfresh⟩ | ⟨hclock, -⟩⟩ := followed_of_sound h hm
    · exact nomatch hn.symm.trans hfresh
    · exact absurd ⟨hclock, hm⟩ hother

/-! ### Resets and the end of START (R67 to R69) -/

/-- A clock that is not LOCAL needs no encoder. -/
theorem clockSound_without_encoder {s t : State} (h : ClockSound s) (hclock : s.strip.clock ≠ .loc)
    (heq : clockOf t.strip = { clockOf s.strip with encoder := .none }) : ClockSound t := by
  obtain ⟨hsame, hencoder, hfollowed, hsource, htable⟩ := ClockView.mk.inj heq
  unfold ClockSound at *
  rw [hsame, hencoder, hfollowed, hsource, htable]
  simp only [clockOf]
  split at h
  next hloc => exact absurd hloc hclock
  all_goals exact ⟨nofun, h.2⟩

theorem stripJoining_clock {now : Time} {t : Settings} {s v : State} (h : ClockSound s)
    (hv : v.strip = stripJoining now t s.strip) : ClockSound v := by
  cases ht : t.encoder with
  | true =>
    by_cases hu : s.strip.encoder = .none
    · rw [stripJoining_of_first ht hu] at hv
      exact clockSound_of_loc (by rw [hv]) (by rw [hv]) (by rw [hv]) (by rw [hv])
    · rw [stripJoining_of_again ht hu] at hv
      exact clockSound_of_same h (by rw [hv]; rfl)
  | false =>
    rw [stripJoining_of_follower ht] at hv
    by_cases hloc : s.strip.clock = .loc
    · exact clockSound_of_quiet (.inl (by simp [hv, hloc])) (by simp [hv]) (by simp [hv, hloc])
    · exact clockSound_without_encoder h hloc (by simp [hv, hloc, clockOf])

theorem stripRestart_clock {s v : State} (h : ClockSound s) (hv : v.strip = stripRestart s.strip) : ClockSound v := by
  unfold stripRestart at hv
  simp only at hv
  split at hv
  next hloc =>
    rw [ClockSound, hloc] at h
    obtain ⟨hencoder, hfollowed, hsource⟩ := h
    exact clockSound_of_loc (by rw [hv]; exact hloc) (by rw [hv]; exact hencoder) (by rw [hv]; exact hfollowed)
      (by rw [hv]; exact hsource)
  next hother =>
    have hencoder := encoder_ne_good_of_sound h hother
    exact clockSound_of_quiet (by simp [hv]) (by rw [hv]; exact hencoder) (by rw [hv])

end Sys2Proof.StripPosition
end

section
/-! Every step keeps the strip clock sound (O57). -/
namespace Sys2Proof.StripPosition
open Sys2Proof.Machine Sys2Proof.Safety Sys2Proof.FibreRing Sys2Proof.StationRoll

/-! ### What holds of the next state -/

/-- The outcome is a next state of which `P` holds. -/
def NextHas (P : State → Prop) (o : Host.Outcome State Fault Refusal) : Prop := ∃ t, o = .next t ∧ P t

theorem nextHas {P : State → Prop} {t : State} (h : P t) : NextHas P (.next t) := ⟨t, rfl, h⟩

/-- An event that acts under a condition, and else changes nothing. -/
theorem nextHas_ite {P : State → Prop} {b : Prop} [Decidable b] {s t : State} (h : P s) (ht : b → P t) :
    NextHas P (.next (if b then t else s)) := by
  split
  next hb => exact nextHas (ht hb)
  next => exact nextHas h

theorem NextHas.mono {P Q : State → Prop} {o : Host.Outcome State Fault Refusal} (h : NextHas P o) (hPQ : ∀ t, P t → Q t) :
    NextHas Q o := by
  obtain ⟨t, ht, hp⟩ := h
  exact ⟨t, ht, hPQ t hp⟩

/-- What every command and the idle step keep, every step keeps; and the queue may change freely. -/
theorem kept_of_exec {P : State → Prop} (hqueue : ∀ s q, P s → P { s with pending := q })
    (hidle : ∀ s, P s → P (idleStep s)) (hexec : ∀ c s, P s → NextHas P (exec c s)) : Kept P := by
  intro s t hs hstep
  unfold step at hstep
  split at hstep
  next => cases hstep; exact hidle s hs
  next c rest _ =>
    obtain ⟨u, hu, hp⟩ := hexec c _ (hqueue s rest hs)
    cases hstep.symm.trans hu
    exact hp

/-! ### The commands that leave the strip position unit as it was -/

/-- The commands that can change a register of the strip position unit. -/
def touchesStrip : Instr → Bool
  | .powerOnReset _ _ _ | .parcelArrival _ | .eepromReadComplete | .encoderSample _ _ | .indexPulse | .cleanExpiry
  | .coordinateUpdate | .speedWindowExpiry | .beaconTimerExpiry | .staleExpiry _ | .removalExpiry _ | .alignmentEnd
  | .clear _ | .restart _ _ _ => true
  | _ => false

theorem sendCompletion_strip (s : State) : NextHas (fun t => t.strip = s.strip) (execSendCompletion s) := by
  unfold execSendCompletion
  split
  · exact nextHas rfl
  · exact nextHas_ite rfl fun _ => by simp

theorem signonTimerExpiry_strip (s : State) : NextHas (fun t => t.strip = s.strip) (execSignonTimerExpiry s) := by
  unfold execSignonTimerExpiry
  split
  · exact nextHas rfl
  · exact nextHas_ite rfl fun _ => by simp

theorem statusTimerExpiry_strip (s : State) : NextHas (fun t => t.strip = s.strip) (execStatusTimerExpiry s) := by
  unfold execStatusTimerExpiry
  split
  · exact nextHas rfl
  · exact nextHas_ite rfl fun _ => by simp

theorem seamEdge_strip (s : State) : NextHas (fun t => t.strip = s.strip) (execSeamEdge s) := by
  unfold execSeamEdge
  (repeat' split) <;> exact nextHas rfl

theorem triggerTimeout_strip (i : Cam) (s : State) : NextHas (fun t => t.strip = s.strip) (execTriggerTimeout i s) := by
  refine nextHas_ite rfl fun _ => ?_
  split <;> simp

theorem lineValidRise_strip (i : Cam) (s : State) : NextHas (fun t => t.strip = s.strip) (execLineValidRise i s) := by
  unfold execLineValidRise
  split <;> exact nextHas rfl

theorem lineCompletion_strip (i : Cam) (l : List (BitVec 12)) (s : State) :
    NextHas (fun t => t.strip = s.strip) (execLineCompletion i l s) := by
  refine nextHas_ite rfl fun _ => ?_
  simp only
  (repeat' split) <;> simp

theorem assemblyTimeout_strip (k : Fin 32) (s : State) : NextHas (fun t => t.strip = s.strip) (execAssemblyTimeout k s) := by
  refine nextHas_ite rfl fun _ => ?_
  split <;> rfl

theorem dlvTake_strip (s : State) : NextHas (fun t => t.strip = s.strip) (execDlvTake s) := by
  refine nextHas_ite rfl fun _ => ?_
  (repeat' split) <;> rfl

theorem nop_strip (arg : BitVec 12) (s : State) : NextHas (fun t => t.strip = s.strip) (execNop arg s) := by
  unfold execNop
  simp only
  split <;> exact nextHas rfl

theorem roll_strip (arg : BitVec 12) (s : State) : NextHas (fun t => t.strip = s.strip) (execRoll arg s) := by
  unfold execRoll
  simp only
  split <;> exact nextHas rfl

theorem eeaddr_strip (arg : BitVec 12) (s : State) : NextHas (fun t => t.strip = s.strip) (execEeaddr arg s) := by
  unfold execEeaddr
  simp only
  split <;> exact nextHas rfl

theorem eewrite_strip (arg : BitVec 12) (s : State) : NextHas (fun t => t.strip = s.strip) (execEewrite arg s) := by
  unfold execEewrite
  simp only
  (repeat' split) <;> exact nextHas rfl

theorem eepromWriteCompletion_strip (s : State) : NextHas (fun t => t.strip = s.strip) (execEepromWriteCompletion s) := by
  unfold execEepromWriteCompletion
  split <;> exact nextHas rfl

theorem syncingCharacter_strip (c : CharClass) (s : State) :
    NextHas (fun t => t.strip = s.strip) (execSyncingCharacter c s) := by
  refine nextHas_ite rfl fun _ => ?_
  split <;> simp

/-- Every other command leaves the strip position unit as it was. -/
theorem exec_strip {c : Instr} (s : State) (hc : touchesStrip c = false) : NextHas (fun t => t.strip = s.strip) (exec c s) := by
  cases c with
  | powerOnReset | parcelArrival | eepromReadComplete | encoderSample | indexPulse | cleanExpiry | coordinateUpdate
  | speedWindowExpiry | beaconTimerExpiry | staleExpiry | removalExpiry | alignmentEnd | clear | restart => cases hc
  | lightAndLock | dlvHold | incompleteFrame | item | high | eelo | eehi | eeread | unknownCommand => exact nextHas rfl
  | partialDrop | clashExpiry | silenceExpiry | triggerPulseEnd | lastTriggerTimeLapse | darkExpiry | dlvCut =>
    exact nextHas_ite rfl fun _ => rfl
  | lossOfLightOrLock => exact nextHas (by simp)
  | inboundUp | alignmentRunEnd | returnWatchExpiry | easeWindowExpiry | easeEntryExpiry =>
    exact nextHas_ite rfl fun _ => by simp
  | sendCompletion => exact sendCompletion_strip s
  | signonTimerExpiry => exact signonTimerExpiry_strip s
  | statusTimerExpiry => exact statusTimerExpiry_strip s
  | seamEdge => exact seamEdge_strip s
  | triggerTimeout i => exact triggerTimeout_strip i s
  | lineValidRise i => exact lineValidRise_strip i s
  | lineCompletion i l => exact lineCompletion_strip i l s
  | assemblyTimeout k => exact assemblyTimeout_strip k s
  | dlvTake => exact dlvTake_strip s
  | nop arg => exact nop_strip arg s
  | roll arg => exact roll_strip arg s
  | eeaddr arg => exact eeaddr_strip arg s
  | eewrite arg => exact eewrite_strip arg s
  | eepromWriteCompletion => exact eepromWriteCompletion_strip s
  | syncingCharacter c => exact syncingCharacter_strip c s

/-! ### The commands that can change it -/

theorem enterDuplicate_clock {s : State} (h : ClockSound s) : ClockSound (enterDuplicate s) := by
  unfold enterDuplicate
  exact recheckBeacon_clock h

theorem duplicateSeen_clock {s : State} (h : ClockSound s) : ClockSound (duplicateSeen s) := by
  unfold duplicateSeen
  simp only
  split
  · exact h
  · exact enterDuplicate_clock h

theorem peerSignon_clock {p : List Byte} {s : State} (h : ClockSound s) : ClockSound (peerSignon p s) := by
  have hduplicate := duplicateSeen_clock h
  unfold peerSignon
  simp only
  (repeat' split) <;> assumption

theorem peerStatus_clock {p : List Byte} {s : State} (h : ClockSound s) : ClockSound (peerStatus p s) := by
  have hduplicate := duplicateSeen_clock h
  unfold peerStatus
  simp only
  (repeat' split) <;> assumption

theorem offerPeer_clock {k : Kind} {p : List Byte} {s : State} (h : ClockSound s) : ClockSound (offerPeer k p s) := by
  cases k with
  | line | mark | ease => exact clockSound_of_strip h (by simp [offerPeer])
  | beacon =>
    have hoffer := beaconOffer_clock (p := addAge p s.ring.linkDelay.toNat) h
    exact clockSound_of_strip hoffer (by simp [offerPeer])
  | status => exact peerStatus_clock h
  | signon => exact peerSignon_clock h

theorem forward_clock {content : List Byte} {s : State} (h : ClockSound s) : ClockSound (forward content s) :=
  clockSound_of_strip h (by simp)

theorem processArrival_clock {r : Reception} {s : State} (h : ClockSound s) : ClockSound (processArrival r s) := by
  unfold processArrival processKnown
  split
  · split
    · split
      · split
        · exact clockSound_of_strip h (by simp)
        · split
          · exact h
          · exact forward_clock (offerPeer_clock h)
      · exact h
    · exact h
  · exact h

theorem updateInOrder_clock {o : UpdateOrder} {s : State} (h : ClockSound s) : ClockSound (updateInOrder o s) := by
  have hcams : ∀ {k : Fin 3} {t : State}, ClockSound t → ClockSound (camerasUpdate o k t) :=
    fun ht => clockSound_of_strip ht (by simp)
  have hseam : ∀ {t : State}, ClockSound t → ClockSound (seamUpdate t) := fun ht => clockSound_of_strip ht (by simp)
  unfold updateInOrder
  simp only
  split
  · exact hcams (stripUpdate_clock (hcams (hseam (hcams h))))
  · exact hcams (hseam (hcams (stripUpdate_clock (hcams h))))

theorem eepromReadComplete_clock {s : State} (h : ClockSound s) : NextHas ClockSound (exec .eepromReadComplete s) := by
  refine nextHas_ite h fun _ => ?_
  simp only
  split
  · have hjoining : ClockSound (joiningStation s) := stripJoining_clock h (joiningStation_rest s).2.2.2.2.2.1
    rw [enterJoining_takeSettings]
    refine clockSound_of_strip hjoining ?_
    simp only
    (repeat' split) <;> simp
  · have hpass : ClockSound (passOnlyStation s) := clockSound_of_quiet (.inl rfl) nofun rfl
    rw [enterPassOnly_finishRead]
    refine clockSound_of_strip hpass ?_
    split <;> simp

theorem indexPulse_clock {s : State} (h : ClockSound s) : NextHas ClockSound (execIndexPulse s) := by
  unfold execIndexPulse
  split <;> exact nextHas h

theorem cleanExpiry_clock {s : State} (h : ClockSound s) : NextHas ClockSound (execCleanExpiry s) := by
  refine nextHas_ite h fun _ => ?_
  split
  · exact returnToGood_clock _ s
  · exact h

theorem beaconTimerExpiry_clock {s : State} (h : ClockSound s) : NextHas ClockSound (execBeaconTimerExpiry s) := by
  unfold execBeaconTimerExpiry requestBeacon
  split
  · exact nextHas h
  · refine nextHas_ite h fun _ => clockSound_of_same h ?_
    rw [(placeRequest_rest _ _).2.2.1]
    rfl

theorem removalExpiry_clock {n : Station} {s : State} (h : ClockSound s) : NextHas ClockSound (execRemovalExpiry n s) :=
  nextHas_ite h fun hdue => removedEntry_clock h ((removalDue_iff s n).mp hdue).1

theorem alignmentEnd_clock {s : State} (h : ClockSound s) : NextHas ClockSound (execAlignmentEnd s) := by
  refine nextHas_ite h fun _ => ?_
  split
  · exact endAlignment_clock h
  · exact h

theorem restart_clock {arg : BitVec 12} {straps : Station} {o : OpenParcel} {s : State} (h : ClockSound s) :
    NextHas ClockSound (execRestart arg straps o s) := by
  unfold execRestart
  simp only
  split
  · exact nextHas h
  · exact nextHas (stripRestart_clock h (by simp [stationRestart]))

/-- Every command keeps the strip clock sound. -/
theorem exec_clock (c : Instr) {s : State} (h : ClockSound s) : NextHas ClockSound (exec c s) := by
  cases hc : touchesStrip c with
  | false => exact (exec_strip s hc).mono fun _ => clockSound_of_strip h
  | true =>
    cases c with
    | powerOnReset => exact nextHas (clockSound_of_quiet (.inl rfl) nofun rfl)
    | parcelArrival => exact nextHas_ite h fun _ => processArrival_clock h
    | eepromReadComplete => exact eepromReadComplete_clock h
    | encoderSample => exact nextHas (samplePair_clock h)
    | indexPulse => exact indexPulse_clock h
    | cleanExpiry => exact cleanExpiry_clock h
    | coordinateUpdate => exact nextHas_ite h fun _ => updateInOrder_clock h
    | speedWindowExpiry => exact nextHas_ite h fun _ => h
    | beaconTimerExpiry => exact beaconTimerExpiry_clock h
    | staleExpiry => exact nextHas_ite h fun _ => staleEntry_clock h
    | removalExpiry => exact removalExpiry_clock h
    | alignmentEnd => exact alignmentEnd_clock h
    | clear => exact nextHas h
    | restart => exact restart_clock h
    | _ => cases hc

theorem idleStep_strip (s : State) : (idleStep s).strip = s.strip := by
  unfold idleStep
  split
  · unfold tick readOn
    split <;> rfl
  all_goals rfl

/-- Settles O57: every command and the idle step keep the strip clock sound. -/
theorem stepsKeepTheStripClock : Obligations.StepsKeepTheStripClock :=
  kept_of_exec (fun _ _ h => h) (fun s h => clockSound_of_strip h (idleStep_strip s)) fun c _ => exec_clock c

end Sys2Proof.StripPosition
end

section
/-! Beacon offers (O19), and how the entries of the beacon table age (O41). -/
namespace Sys2Proof.StripPosition
open Sys2Proof.Machine Sys2Proof.Safety Sys2Proof.FibreRing Sys2Proof.StationRoll

/-! ### A written entry (R57, R58) -/

theorem afterEntryWrite_of_loc {n : Station} {s : State} (h : s.strip.clock = .loc) : afterEntryWrite n s = s := by
  rw [afterEntryWrite, h]

theorem afterEntryWrite_of_following {n : Station} {s : State} (h : s.strip.clock = .following) :
    afterEntryWrite n s =
      if s.strip.followed = some n then { s with strip := { s.strip with vs := s.strip.table[n].speed } } else s := by
  rw [afterEntryWrite, h]
  rfl

theorem afterEntryWrite_of_idle {n : Station} {s : State}
    (h : s.strip.clock = .none ∨ s.strip.clock = .coasting ∨ s.strip.clock = .held) : afterEntryWrite n s = follow n s := by
  unfold afterEntryWrite
  rcases h with h | h | h <;> rw [h]

/-! ### The offer of a BEACON (R53, R54) -/

theorem runs_iff (c : StationState) : c.runs = true ↔ c ≠ .start ∧ c ≠ .passOnly := by
  cases c <;> simp [StationState.runs]

theorem acceptsBeacon_iff (e : BeaconEntry) (q : Word16) : acceptsBeacon e q = true ↔
    e.condition = .empty ∨ (1 ≤ (q - e.sequence).toNat ∧ (q - e.sequence).toNat ≤ 32767) := by
  simp only [acceptsBeacon, newer, Bool.or_eq_true, beq_iff_eq, decide_eq_true_eq]

/-- The state with the entry of an accepted offer written. -/
def entered (p : List Byte) (s : State) : State :=
  { s with strip := { s.strip with table := put s.strip.table (sourceField p) (beaconEntryOf s.time p) } }

theorem entered_entry (p : List Byte) (s : State) :
    (entered p s).strip.table[sourceField p] = beaconEntryOf s.time p := put_self _ _ _

/-- When an offer is entered (R53). -/
theorem beaconOffer_eq (p : List Byte) (s : State) : beaconOffer p s =
    if s.ctl.state ≠ .start ∧ s.ctl.state ≠ .passOnly ∧ sourceField p ≠ s.ctl.number
      ∧ (s.strip.table[sourceField p].condition = .empty
        ∨ (1 ≤ (beaconSeq p - s.strip.table[sourceField p].sequence).toNat
          ∧ (beaconSeq p - s.strip.table[sourceField p].sequence).toNat ≤ 32767)) then
      afterEntryWrite (sourceField p) (entered p s)
    else s :=
  if_congr (by simp only [Bool.and_eq_true, runs_iff, bne_iff_ne, acceptsBeacon_iff, and_assoc]) rfl rfl

/-- Settles O19, by what the clock does with the entry written. -/
theorem beaconOffersFillTheTable : Obligations.BeaconOffersFillTheTable := by
  rintro p n s rfl
  refine ⟨fun h => (beaconOffer_eq p s).trans (if_neg (by tauto)), fun hstart hpass hpeer haccepts e he => ?_⟩
  obtain rfl : e = beaconEntryOf s.time p := he
  rw [beaconOffer_eq, if_pos ⟨hstart, hpass, hpeer, haccepts⟩]
  refine ⟨?_, fun ⟨hclock, hfollowed⟩ => ?_, fun hclock => ?_⟩
  · rintro (hclock | ⟨hclock, hfollowed⟩)
    · exact afterEntryWrite_of_loc (s := entered p s) hclock
    · exact (afterEntryWrite_of_following (s := entered p s) hclock).trans (if_neg hfollowed)
  · rw [afterEntryWrite_of_following (s := entered p s) hclock, entered_entry]
    exact if_pos hfollowed
  · rw [afterEntryWrite_of_idle (s := entered p s) hclock]
    split
    next hsame =>
      rw [follow_of_same (s := entered p s) hsame, entered_entry]
      rfl
    next hother =>
      obtain ⟨hnone, hother⟩ := not_or.mp hother
      rw [follow_of_other (s := entered p s) hnone hother, entered_entry]
      rfl

/-! ### The stale and the removal expiry (R55, R58, R59) -/

/-- The state with entry `n` STALE. -/
def staled (n : Station) (s : State) : State :=
  { s with strip := { s.strip with table := put s.strip.table n { s.strip.table[n] with condition := .stale } } }

/-- The state with entry `n` emptied. -/
def emptied (n : Station) (s : State) : State :=
  { s with strip := { s.strip with table := put s.strip.table n .blank } }

theorem exec_staleExpiry (n : Station) (s : State) : exec (.staleExpiry n) s = .next (if staleDue s n then
    if s.strip.clock = .following ∧ s.strip.followed = some n then followedStale n (staled n s) else staled n s
    else s) := rfl

theorem exec_removalExpiry (n : Station) (s : State) : exec (.removalExpiry n) s = .next (if removalDue s n then
    if s.strip.clock = .coasting ∧ s.strip.followed = some n then enterHeld (emptied n s) else emptied n s
    else s) := rfl

/-- With no other entry FRESH the clock coasts on the entry that has gone STALE (R58). -/
theorem followedStale_of_none {n : Station} {s : State} (h : bestFreshBut s.strip.table n = none) :
    followedStale n (staled n s) = { staled n s with strip := { (staled n s).strip with clock := .coasting } } := by
  have hbest : bestFreshBut (staled n s).strip.table n = none := (bestFreshBut_put _ _ _).trans h
  rw [followedStale, hbest]
  rfl

/-- Else it follows the best other entry, which is another source (R58, R61). -/
theorem followedStale_of_some {n m : Station} {s : State} (hsource : s.strip.source = .station n)
    (h : bestFreshBut s.strip.table n = some m) :
    followedStale n (staled n s) = { staled n s with
      strip := { (staled n s).strip with
        clock := .following, followed := some m, vs := s.strip.table[m].speed, source := .station m,
        sourceSwitches := satInc s.strip.sourceSwitches },
      cams := sourceChanged s.cams } := by
  have hbest : bestFreshBut (staled n s).strip.table n = some m := (bestFreshBut_put _ _ _).trans h
  obtain ⟨hmn, -, -⟩ := (bestFreshBut_eq_some_iff _ _ _).mp h
  have hother : (staled n s).strip.source ≠ .station m := by
    rw [show (staled n s).strip.source = .station n from hsource]
    exact fun heq => hmn (PositionSource.station.inj heq).symm
  have hentry : (staled n s).strip.table[m] = s.strip.table[m] := put_other _ _ _ _ hmn.symm
  rw [followedStale, hbest]
  show follow m (staled n s) = _
  rw [follow_of_other (by simp [staled, hsource]) hother, hentry]
  rfl

/-- Settles O41: each expiry, by whether its entry is the followed one. -/
theorem beaconEntriesAge : Obligations.BeaconEntriesAge := by
  rintro n s e stale rfl rfl
  simp only [exec_staleExpiry, exec_removalExpiry, staleDue_iff, removalDue_iff]
  refine ⟨fun h => congrArg _ (if_neg h), fun hfresh hover => ?_, fun h => congrArg _ (if_neg h), fun hstale hover => ?_⟩
  · rw [if_pos ⟨hfresh, hover⟩]
    refine ⟨fun hother => congrArg _ (if_neg hother), fun hclock hfollowed => ?_⟩
    rw [if_pos ⟨hclock, hfollowed⟩]
    exact ⟨fun hnone => congrArg _ (followedStale_of_none hnone),
      fun m hsource hsome => congrArg _ (followedStale_of_some hsource hsome)⟩
  · rw [if_pos ⟨hstale, hover⟩]
    refine ⟨fun hother => congrArg _ (if_neg hother), fun hclock hfollowed => ?_⟩
    rw [if_pos ⟨hclock, hfollowed⟩]
    exact congrArg _ (enterHeld_eq (emptied n s))

end Sys2Proof.StripPosition
end

section
/-! The quadrature decoder (O36, O37), and an encoder's return to GOOD (O39). -/
namespace Sys2Proof.StripPosition
open Sys2Proof.Machine Sys2Proof.Safety Sys2Proof.FibreRing Sys2Proof.StationRoll

/-! ### Valid steps (R42, Table 3.2) -/

/-- The steps of Table 3.2 along which a normal direction counts up: the old pair and the new one. -/
def forwardSteps : List (Bool × Bool × Bool × Bool) :=
  [(false, false, false, true), (false, true, true, true), (true, true, true, false), (true, false, false, false)]

theorem stepSign_same (a b : Bool) : stepSign a b a b = 0 := by cases a <;> cases b <;> rfl

theorem stepSign_forward : ∀ a b c d : Bool, (a, b, c, d) ∈ forwardSteps →
    ¬ (c != a && d != b) = true ∧ stepSign a b c d = 1 := by decide

theorem stepSign_backward : ∀ a b c d : Bool, (c, d, a, b) ∈ forwardSteps →
    ¬ (c != a && d != b) = true ∧ stepSign a b c d = -1 := by decide

theorem directionReversed_iff (s : State) :
    directionReversed s = true ↔ ∃ t, s.store.settings = some t ∧ t.reversed = true := by
  unfold directionReversed
  cases s.store.settings with
  | none => simp
  | some t => simp

/-- The state after a sample of the pair `a`, `b` that leaves the count at `c`. -/
def sampled (a b : Bool) (c : Word32) (s : State) : State :=
  { s with strip := { s.strip with heldA := a, heldB := b, count := c } }

/-- A sample in which at most one input changed counts its step in the direction in force (R42). -/
theorem exec_encoderSample_of_single {a b : Bool} {s : State} (h : ¬ (a != s.strip.heldA && b != s.strip.heldB) = true) :
    exec (.encoderSample a b) s = .next (sampled a b (s.strip.count + BitVec.ofInt 32
      (if directionReversed s then -stepSign s.strip.heldA s.strip.heldB a b
        else stepSign s.strip.heldA s.strip.heldB a b)) s) :=
  congrArg _ (if_neg h)

theorem add_minus_one (c : Word32) : c + BitVec.ofInt 32 (-1) = c - 1 := (BitVec.sub_eq_add_neg c 1).symm

/-- Settles O36: the step is none, forward or backward, and the direction normal or reversed. -/
theorem encoderStepsCount : Obligations.EncoderStepsCount := by
  rintro a b up s forward rfl hup
  have hreversed : directionReversed s = !up := by
    rw [← directionReversed_iff, Bool.not_eq_true] at hup
    rw [← Bool.not_eq_eq_eq_not, Bool.eq_iff_iff, Bool.not_eq_true', hup]
  refine ⟨?_, fun h => ?_, fun h => ?_⟩
  · rintro rfl rfl
    rw [exec_encoderSample_of_single (by simp), stepSign_same]
    simp [sampled]
  · obtain ⟨hsingle, hsign⟩ := stepSign_forward _ _ _ _ h
    rw [exec_encoderSample_of_single hsingle, hsign, hreversed]
    cases up with
    | true => rfl
    | false => exact congrArg (fun c => Host.Outcome.next (sampled a b c s)) (add_minus_one _)
  · obtain ⟨hsingle, hsign⟩ := stepSign_backward _ _ _ _ h
    rw [exec_encoderSample_of_single hsingle, hsign, hreversed]
    cases up with
    | true => exact congrArg (fun c => Host.Outcome.next (sampled a b c s)) (add_minus_one _)
    | false => rfl

/-! ### Illegal steps (R43) -/

theorem listStep_eq (now : Time) (l : List Time) : listStep now l = (l ++ [now]).drop (l.length + 1 - 16) := by
  simp only [listStep, List.length_append, List.length_singleton]
  rfl

theorem faultList_iff (now : Time) (l : List Time) :
    faultList now l = true ↔ l.length = 16 ∧ ∀ x, l.head? = some x → (now - x).toNat < 10000 := by
  cases l with
  | nil => simp [faultList]
  | cons x l =>
    simp only [faultList, Bool.and_eq_true, beq_iff_eq, decide_eq_true_eq, List.head?_cons, Option.some.injEq, forall_eq']
    rfl

/-- The unit after an illegal step that is counted, before any fault (R43). -/
def illegalStep (a b : Bool) (now : Time) (u : StripUnit) : StripUnit :=
  { u with heldA := a, heldB := b, encoderErrors := satInc u.encoderErrors, illegal := listStep now u.illegal }

theorem exec_encoderSample_of_none {a b : Bool} {s : State} (ha : a ≠ s.strip.heldA) (hb : b ≠ s.strip.heldB)
    (h : s.strip.encoder = .none) :
    exec (.encoderSample a b) s = .next { s with strip := { s.strip with heldA := a, heldB := b } } := by
  show Host.Outcome.next (samplePair a b s) = _
  unfold samplePair
  simp only
  rw [if_pos (by simp [ha, hb]), h]

theorem exec_encoderSample_of_illegal {a b : Bool} {s : State} (ha : a ≠ s.strip.heldA) (hb : b ≠ s.strip.heldB)
    (h : s.strip.encoder ≠ .none) : exec (.encoderSample a b) s = .next
      (if s.strip.encoder = .good ∧ faultList s.time (listStep s.time s.strip.illegal) = true then
        encoderFault { s with strip := { illegalStep a b s.time s.strip with encoder := .fault } }
      else { s with strip := illegalStep a b s.time s.strip }) := by
  show Host.Outcome.next (samplePair a b s) = _
  unfold samplePair
  simp only
  rw [if_pos (by simp [ha, hb])]
  cases henc : s.strip.encoder with
  | none => exact absurd henc h
  | good | fault => simp [illegalStep, henc]

/-! ### The encoder fault (R62) -/

theorem recheckBeacon_of_not_loc {s : State} (h : s.strip.clock ≠ .loc) :
    recheckBeacon s = { s with strip := { s.strip with beaconTimer := none } } :=
  recheckBeacon_of_quiet ((beaconing_eq_false_iff s).mpr (.inr (.inl h)))

theorem encoderFault_of_none {s : State} (hclock : s.strip.clock = .loc) (hbest : bestFresh s.strip.table = none) :
    encoderFault s = { s with
      strip := { s.strip with windowAdvance := 0, clock := .held, followed := none, beaconTimer := none },
      cams := fallbackMarked s } := by
  rw [encoderFault, if_pos hclock, hbest]
  show recheckBeacon (enterHeld (onStrip _ s)) = _
  rw [enterHeld_eq, recheckBeacon_of_not_loc (by simp)]
  rfl

theorem encoderFault_of_some {n : Station} {s : State} (hclock : s.strip.clock = .loc) (hsource : s.strip.source = .loc)
    (hbest : bestFresh s.strip.table = some n) :
    encoderFault s = { s with
      strip := { s.strip with
        windowAdvance := 0, clock := .following, followed := some n, beaconTimer := none, vs := s.strip.table[n].speed,
        source := .station n, sourceSwitches := satInc s.strip.sourceSwitches },
      cams := sourceChanged s.cams } := by
  rw [encoderFault, if_pos hclock, hbest]
  show recheckBeacon (follow n (onStrip _ s)) = _
  rw [follow_of_other (by simp [hsource]) (by simp [hsource]), recheckBeacon_of_not_loc (by simp)]
  rfl

/-- Settles O37, by the state of the encoder, the illegal-step list, and the clock with the beacon table. -/
theorem illegalEncoderSteps : Obligations.IllegalEncoderSteps := by
  rintro a b s l u ha hb hl hu
  rw [← listStep_eq] at hl
  obtain rfl : u = illegalStep a b s.time s.strip := by rw [hu, hl]; rfl
  subst hl
  refine ⟨exec_encoderSample_of_none ha hb, fun henc => ?_⟩
  rw [exec_encoderSample_of_illegal ha hb henc]
  simp only [faultList_iff]
  refine ⟨fun h => congrArg _ (if_neg ?_), fun hgood hlen hnew => ?_⟩
  · rintro ⟨hgood, hlen, hnew⟩
    rcases h with hfault | hshort | hold
    · exact nomatch hgood.symm.trans hfault
    · omega
    · cases hhead : (listStep s.time s.strip.illegal).head? with
      | none => rw [List.head?_eq_none_iff.mp hhead] at hlen; cases hlen
      | some x => exact absurd (hnew x hhead) (Nat.not_lt.mpr (hold x hhead))
  · rw [if_pos ⟨hgood, hlen, hnew⟩]
    exact ⟨fun hclock => congrArg _ (if_neg hclock), fun hclock hbest => congrArg _ (encoderFault_of_none hclock hbest),
      fun n hclock hsource hbest => congrArg _ (encoderFault_of_some hclock hsource hbest)⟩

/-! ### The return to GOOD (R44, R63) -/

theorem published_toNat (t : Settings) (u : StripUnit) :
    ((published t u).toNat : Int) = max 0 (min 281474976710655 ((u.x.toNat : Int) + t.encoderOffset)) := coordOf_toNat _

/-- The unit with X re-based onto the estimate, in LOCAL with its encoder GOOD. -/
def rebased (t : Settings) (u : StripUnit) : StripUnit :=
  let v : StripUnit := { u with
    encoder := .good, illegal := [], x := coordOf (u.xhat.toNat - t.encoderOffset), residue := 0, lastCount := u.count,
    windowAdvance := 0, clock := .loc, followed := none, source := .loc }
  { v with xhat := published t v }

theorem returnToGood_of_same {t : Settings} {s : State} (h : s.strip.source = .none ∨ s.strip.source = .loc) :
    returnToGood t s = recheckBeacon { s with strip := rebased t s.strip } :=
  congrArg recheckBeacon (setSource_of_same h)

theorem returnToGood_of_station {t : Settings} {s : State} {n : Station} (h : s.strip.source = .station n) :
    returnToGood t s = recheckBeacon { s with
      strip := { rebased t s.strip with sourceSwitches := satInc s.strip.sourceSwitches }, cams := sourceChanged s.cams } :=
  congrArg recheckBeacon (setSource_of_other (by simp [h]) (by simp [h]))

theorem exec_cleanExpiry_of_due {t : Settings} {s : State} (hdue : cleanDue s = true) (ht : s.store.settings = some t) :
    exec .cleanExpiry s = .next (returnToGood t s) := by
  show execCleanExpiry s = _
  rw [execCleanExpiry, if_pos hdue, ht]

/-- Settles O39, by whether the expiry has fallen and what the source was. -/
theorem encoderReturnsToGood : Obligations.EncoderReturnsToGood := by
  refine fun s => ⟨fun h => congrArg _ (if_neg ?_), fun t x henc hlast hover ht => ?_⟩
  · rw [cleanDue_iff]
    rintro ⟨henc, x, hlast, hover⟩
    rcases h with hother | hempty | ⟨y, hy, hearly⟩
    · exact hother henc
    · rw [hempty] at hlast
      cases hlast
    · cases hlast.symm.trans hy
      exact absurd hover (Nat.not_le.mpr hearly)
  · rw [exec_cleanExpiry_of_due ((cleanDue_iff s).mpr ⟨henc, x, hlast, hover⟩) ht]
    exact ⟨rebased t s.strip, rfl, coordOf_toNat _, published_toNat t (rebased t s.strip),
      fun h => congrArg _ (returnToGood_of_same h), fun ⟨n, h⟩ => congrArg _ (returnToGood_of_station h)⟩

end Sys2Proof.StripPosition
end

section
/-! The end of start-up alignment (O42), the speed window and the index pulse (O40). -/
namespace Sys2Proof.StripPosition
open Sys2Proof.Machine Sys2Proof.Safety Sys2Proof.FibreRing Sys2Proof.StationRoll

/-! ### The end of start-up alignment (R64, R65) -/

theorem extrapolate_toNat (now : Time) (e : BeaconEntry) : ((extrapolate now e).toNat : Int) =
    max 0 (min 281474976710655 ((e.coord.toNat : Int)
      + e.speed.toInt * (min 200000 ((e.age.toNat + (now - e.receipt).toNat) % 2 ^ 32) : Nat) / 163840)) := coordOf_toNat _

/-- The reference coordinate that start-up alignment gives X with this entry the best (R65). -/
def alignedX (now : Time) (t : Settings) (u : StripUnit) : Option Station → Coord
  | some n => coordOf ((extrapolate now u.table[n]).toNat - t.encoderOffset)
  | none => 0

/-- The unit whose alignment is complete. -/
def alignedUnit (now : Time) (t : Settings) (u : StripUnit) : StripUnit :=
  let v : StripUnit := { u with
    x := alignedX now t u (bestFresh u.table), residue := 0, lastCount := u.count, alignStart := none, aligned := true }
  { v with xhat := if u.clock = .loc then published t v else u.xhat }

theorem alignedUnit_x_of_none {now : Time} {t : Settings} {u : StripUnit} (h : bestFresh u.table = none) :
    (alignedUnit now t u).x = 0 := by
  rw [alignedUnit, h, alignedX]

theorem alignedUnit_x_of_some {now : Time} {t : Settings} {u : StripUnit} {n : Station} (h : bestFresh u.table = some n) :
    (alignedUnit now t u).x = coordOf ((extrapolate now u.table[n]).toNat - t.encoderOffset) := by
  rw [alignedUnit, h, alignedX]

theorem alignedUnit_xhat_of_loc {now : Time} {t : Settings} {u : StripUnit} (h : u.clock = .loc) :
    (alignedUnit now t u).xhat = published t (alignedUnit now t u) := by
  simp only [alignedUnit, h, if_true]
  rfl

theorem alignedUnit_xhat_of_not_loc {now : Time} {t : Settings} {u : StripUnit} (h : u.clock ≠ .loc) :
    (alignedUnit now t u).xhat = u.xhat := if_neg h

theorem exec_alignmentEnd_of_early {s : State} (h : ∀ b, s.strip.alignStart = some b → (s.time - b).toNat < 50000) :
    exec .alignmentEnd s = .next s := by
  refine congrArg _ (if_neg ?_)
  rw [timerDue_iff]
  rintro ⟨b, hb, hover⟩
  exact absurd (h b hb) (Nat.not_lt.mpr hover)

theorem exec_alignmentEnd_of_over {s : State} {b : Time} {t : Settings} (hb : s.strip.alignStart = some b)
    (hover : 50000 ≤ (s.time - b).toNat) (ht : s.store.settings = some t) :
    exec .alignmentEnd s = .next (recheckBeacon { s with strip := alignedUnit s.time t s.strip }) := by
  show execAlignmentEnd s = _
  have hdue : timerDue s.time s.strip.alignStart Config.listenTime = true := (timerDue_iff _ _ _).mpr ⟨b, hb, hover⟩
  rw [execAlignmentEnd, if_pos hdue, ht]
  rfl

/-- Settles O42, by whether the listening is over. -/
theorem alignmentEnds : Obligations.AlignmentEnds := by
  refine ⟨extrapolate_toNat, fun s => ⟨fun h => exec_alignmentEnd_of_early fun b hb => (nomatch h.symm.trans hb),
    fun b hb => ⟨fun h => exec_alignmentEnd_of_early fun c hc => ?_, fun t hover ht =>
      ⟨alignedUnit s.time t s.strip, exec_alignmentEnd_of_over hb hover ht, rfl, alignedUnit_x_of_none, fun n hbest => ?_,
        alignedUnit_xhat_of_not_loc, fun hclock => ?_⟩⟩⟩⟩
  · cases hb.symm.trans hc
    exact h
  · rw [alignedUnit_x_of_some hbest]
    exact coordOf_toNat _
  · rw [alignedUnit_xhat_of_loc hclock]
    exact published_toNat t _

/-! ### The speed window and the index pulse (R48, R66) -/

/-- The speed after a window (R48). -/
def smoothed (u : StripUnit) : Speed :=
  if u.clock = .loc then speedOf (u.vs.toInt + floorDiv (u.windowAdvance * 256 - u.vs.toInt) 4) else u.vs

theorem exec_speedWindowExpiry (s : State) : exec .speedWindowExpiry s = .next
    (if 640 ≤ (s.time - s.strip.windowTimer).toNat then { s with strip := { s.strip with
      windowTimer := s.strip.windowTimer + 640, windowAdvance := 0, vs := smoothed s.strip } } else s) :=
  congrArg _ (if_congr (reached_iff _ _ _) rfl rfl)

/-- Settles O40, by whether the window is over and by the clock. -/
theorem speedWindowAndIndexPulse : Obligations.SpeedWindowAndIndexPulse := by
  refine fun s => ⟨fun h => ?_, fun h => ⟨smoothed s.strip, ?_, fun hclock => if_neg hclock, fun hclock => ?_⟩, ?_⟩
  · rw [exec_speedWindowExpiry, if_neg (Nat.not_le.mpr h)]
  · rw [exec_speedWindowExpiry, if_pos h]
  · rw [smoothed, if_pos hclock]
    exact speedOf_toInt _
  · show execIndexPulse s = _
    unfold execIndexPulse
    cases s.strip.encoder <;> rfl

end Sys2Proof.StripPosition
end

section
/-! The coordinate update as its parties take it, and the strip position unit's part (O43). -/
namespace Sys2Proof.StripPosition
open Sys2Proof.Machine Sys2Proof.Safety Sys2Proof.FibreRing Sys2Proof.StationRoll

/-! ### The parties (R45, R73, R87) -/

theorem perm_of_later {α : Type} (l m r : List α) (a : α) : (l ++ (m ++ a :: r)).Perm (a :: (l ++ (m ++ r))) :=
  (List.perm_middle.append_left l).trans List.perm_middle

/-- A list is its elements of slot 0, then those of slot 1, then those of slot 2, in some order. -/
theorem slots_perm {α : Type} (slot : α → Fin 3) (l : List α) :
    (l.filter (slot · = 0) ++ (l.filter (slot · = 1) ++ l.filter (slot · = 2))).Perm l := by
  induction l with
  | nil => exact .nil
  | cons a l ih =>
    have hslot : slot a = 0 ∨ slot a = 1 ∨ slot a = 2 := by omega
    rcases hslot with h | h | h <;> simp only [List.filter_cons, h]
    · exact .cons a ih
    · exact List.perm_middle.trans (.cons a ih)
    · exact (perm_of_later _ _ _ a).trans (.cons a ih)

/-- The parts of the cameras of one slot. -/
def camerasOf (o : UpdateOrder) (k : Fin 3) : List (State → State) :=
  ((List.finRange 4).filter (o.slot · = k)).map cameraUpdate

theorem camerasUpdate_eq (o : UpdateOrder) (k : Fin 3) (s : State) :
    camerasUpdate o k s = (camerasOf o k).foldl (fun t party => party t) s := by
  simp only [camerasUpdate, camerasOf, List.foldl_map, List.foldl_filter, decide_eq_true_eq]

/-- The parties in the order in which they take the update. -/
def partiesInOrder (o : UpdateOrder) : List (State → State) :=
  camerasOf o 0 ++ [if o.seamFirst then seamUpdate else stripUpdate] ++ camerasOf o 1
    ++ [if o.seamFirst then stripUpdate else seamUpdate] ++ camerasOf o 2

theorem updateInOrder_eq (o : UpdateOrder) (s : State) :
    updateInOrder o s = (partiesInOrder o).foldl (fun t party => party t) s := by
  simp only [partiesInOrder, List.foldl_append, ← camerasUpdate_eq, List.foldl_cons, List.foldl_nil, updateInOrder]
  cases o.seamFirst <;> rfl

theorem partiesInOrder_perm (o : UpdateOrder) : (partiesInOrder o).Perm
    [stripUpdate, seamUpdate, cameraUpdate 0, cameraUpdate 1, cameraUpdate 2, cameraUpdate 3] := by
  have hcams : (camerasOf o 0 ++ (camerasOf o 1 ++ camerasOf o 2)).Perm
      [cameraUpdate 0, cameraUpdate 1, cameraUpdate 2, cameraUpdate 3] := by
    simp only [camerasOf, ← List.map_append]
    exact (slots_perm o.slot (List.finRange 4)).map cameraUpdate
  have hunits : ∀ x y : State → State,
      (camerasOf o 0 ++ x :: (camerasOf o 1 ++ y :: camerasOf o 2)).Perm
        (x :: y :: [cameraUpdate 0, cameraUpdate 1, cameraUpdate 2, cameraUpdate 3]) :=
    fun x y => List.perm_middle.trans (.cons x ((perm_of_later _ _ _ y).trans (.cons y hcams)))
  simp only [partiesInOrder, List.append_assoc, List.cons_append, List.nil_append]
  cases o.seamFirst with
  | true => exact (hunits seamUpdate stripUpdate).trans (.swap _ _ _)
  | false => exact hunits stripUpdate seamUpdate

/-! ### The strip position unit's part (R46, R47, R64) -/

/-- The unit after the scaling of an update, before its estimate. -/
def scaled (s : State) : StripUnit :=
  match s.strip.encoder, s.store.settings with
  | .good, some t => scale t s.strip
  | _, _ => s.strip

/-- The estimate after an update. -/
def estimate (s : State) : Coord :=
  match (scaled s).clock with
  | .loc => match s.store.settings with
    | some t => published t (scaled s)
    | none => (scaled s).xhat
  | .following | .coasting => match (scaled s).followed with
    | some n => extrapolate s.time (scaled s).table[n]
    | none => (scaled s).xhat
  | .none | .held => (scaled s).xhat

theorem scaled_of_not_good {s : State} (h : s.strip.encoder ≠ .good) : scaled s = s.strip := by
  unfold scaled
  split
  next hgood _ => exact absurd hgood h
  next => rfl

theorem scaled_of_good {s : State} {c : Settings} (h : s.strip.encoder = .good) (hc : s.store.settings = some c) :
    scaled s = scale c s.strip := by
  rw [scaled, h, hc]

/-- The scaling leaves the estimate and what the estimate is taken from. -/
theorem scaled_rest (s : State) : (scaled s).clock = s.strip.clock ∧ (scaled s).followed = s.strip.followed
    ∧ (scaled s).table = s.strip.table ∧ (scaled s).xhat = s.strip.xhat := by
  unfold scaled
  split <;> exact ⟨rfl, rfl, rfl, rfl⟩

theorem scale_x_toNat (c : Settings) (u : StripUnit) : ((scale c u).x.toNat : Int) = max 0 (min 281474976710655
    (u.x.toNat + ((u.count - u.lastCount).toInt * c.num + u.residue.toNat) / (c.den : Int))) := coordOf_toNat _

/-- The scaling of R46: what is left of the division is its remainder. -/
theorem scale_eq {c : Settings} {u : StripUnit} {total sum : Int}
    (htotal : total = (u.count - u.lastCount).toInt * c.num + u.residue.toNat)
    (hsum : sum = u.x.toNat + total / (c.den : Int)) :
    scale c u = { u with
      lastCount := u.count, x := (scale c u).x, residue := if sum < 0 then 0 else BitVec.ofInt 16 (total % (c.den : Int)),
      underrunClamps := if sum < 0 then satInc u.underrunClamps else u.underrunClamps,
      windowAdvance := u.windowAdvance + (((scale c u).x.toNat : Int) - u.x.toNat) } := by
  subst hsum htotal
  rw [Int.emod_def, Int.mul_comm (c.den : Int)]
  rfl

theorem estimate_of_loc {s : State} {c : Settings} (h : s.strip.clock = .loc) (hc : s.store.settings = some c) :
    estimate s = published c (scaled s) := by
  obtain ⟨hclock, -, -, -⟩ := scaled_rest s
  rw [estimate, hclock, h, hc]

theorem estimate_of_followed {s : State} {n : Station} (h : s.strip.clock = .following ∨ s.strip.clock = .coasting)
    (hn : s.strip.followed = some n) : estimate s = extrapolate s.time s.strip.table[n] := by
  obtain ⟨hclock, hfollowed, htable, -⟩ := scaled_rest s
  rcases h with h | h <;> rw [estimate, hclock, h, hfollowed, hn, htable]

theorem estimate_of_quiet {s : State} (h : s.strip.clock = .none ∨ s.strip.clock = .held) : estimate s = s.strip.xhat := by
  obtain ⟨hclock, -, -, hxhat⟩ := scaled_rest s
  rcases h with h | h <;> rw [estimate, hclock, h, hxhat]

theorem stripUpdate_strip (s : State) : (stripUpdate s).strip = { scaled s with xhat := estimate s } := rfl

theorem stripUpdate_congr {s t : State} (hstrip : t.strip = s.strip) (htime : t.time = s.time) (hstore : t.store = s.store) :
    (stripUpdate t).strip = (stripUpdate s).strip := by
  rw [stripUpdate, stripUpdate, hstrip, htime, hstore]

/-- In every order the unit finds the registers it had before the update. -/
theorem updateInOrder_strip (o : UpdateOrder) (s : State) : (updateInOrder o s).strip = (stripUpdate s).strip := by
  unfold updateInOrder
  simp only
  split <;> simp only [camerasUpdate_rest, seamUpdate_rest]
  all_goals exact stripUpdate_congr (by simp) (by simp) (by simp)

theorem updateInOrder_xhat (o : UpdateOrder) (s : State) : (updateInOrder o s).strip.xhat = estimate s :=
  congrArg StripUnit.xhat (updateInOrder_strip o s)

/-- The update changes nothing of the unit but what its scaling and its estimate do. -/
theorem updateInOrder_scaled (o : UpdateOrder) (s : State) :
    (updateInOrder o s).strip = { scaled s with xhat := (updateInOrder o s).strip.xhat } := by
  rw [updateInOrder_xhat, updateInOrder_strip, stripUpdate_strip]

/-! ### The event -/

/-- The state in which the next period has begun, with a choice taken of the order of the parties. -/
def begun (s : State) : State :=
  { s with freeCount := s.freeCount + 1, strip := { s.strip with updateTimer := s.strip.updateTimer + 10 } }

theorem exec_coordinateUpdate (s : State) : exec .coordinateUpdate s = .next
    (if 10 ≤ (s.time - s.strip.updateTimer).toNat then updateInOrder (Config.updateOrder s.freeCount) (begun s) else s) :=
  congrArg _ (if_congr (reached_iff _ _ _) rfl rfl)

/-- Settles O43: the parties, the unit's scaling, and its estimate in each clock state. -/
theorem coordinateUpdateOfTheStrip : Obligations.CoordinateUpdateOfTheStrip := by
  refine ⟨fun o => ⟨partiesInOrder o, partiesInOrder_perm o, updateInOrder_eq o⟩, fun s => ⟨fun h => ?_, fun h => ?_⟩⟩
  · rw [exec_coordinateUpdate, if_neg (Nat.not_le.mpr h)]
  · refine ⟨_, updateInOrder (Config.updateOrder s.freeCount) (begun s), scaled (begun s), rfl, ?_, updateInOrder_scaled _ _,
      fun henc => scaled_of_not_good henc, fun c total sum henc hc htotal hsum => ?_, fun c hclock hc => ?_,
      fun n e hclock hn he => ?_, fun hclock => ?_⟩
    · rw [exec_coordinateUpdate, if_pos h]
    · rw [scaled_of_good (s := begun s) henc hc]
      refine ⟨scale_eq (u := (begun s).strip) htotal hsum, ?_⟩
      rw [hsum, htotal]
      exact scale_x_toNat c (begun s).strip
    · rw [updateInOrder_xhat, estimate_of_loc (s := begun s) hclock hc]
      exact published_toNat c _
    · rw [updateInOrder_xhat, estimate_of_followed (s := begun s) hclock hn, he]
      exact extrapolate_toNat _ _
    · rw [updateInOrder_xhat]
      exact estimate_of_quiet (s := begun s) hclock

end Sys2Proof.StripPosition
end

section
/-! The seam list: what an offered record does to it, and when an entry leaves it (R77 to R80). -/
namespace Sys2Proof.SeamsAndCoils
open Sys2Proof.Machine Sys2Proof.Safety Sys2Proof.FibreRing Sys2Proof.StationRoll

/-! ### Nearness and place in the list (R77) -/

theorem within_iff_natAbs (a b : Coord) : within a b = true ↔ ((a.toNat : Int) - b.toNat).natAbs ≤ 2000 := by
  rw [within, decide_eq_true_iff, Config.mergeDistance]
  omega

/-- The new entry stands after every entry not above it and, in an ascending list, before every higher one. -/
theorem insertSeam_split (e : SeamEntry) {l : List SeamEntry} (h : l.Pairwise (fun a b => a.coord.toNat < b.coord.toNat)) :
    ∃ before after, l = before ++ after ∧ insertSeam e l = before ++ e :: after
      ∧ (∀ x ∈ before, x.coord.toNat ≤ e.coord.toNat) ∧ ∀ x ∈ after, e.coord.toNat < x.coord.toNat := by
  induction l with
  | nil => exact ⟨[], [], rfl, rfl, nofun, nofun⟩
  | cons x l ih =>
    obtain ⟨hx, hl⟩ := List.pairwise_cons.mp h
    by_cases hlow : e.coord.toNat < x.coord.toNat
    · refine ⟨[], x :: l, rfl, by rw [insertSeam, if_pos hlow, List.nil_append], nofun, fun y hy => ?_⟩
      rcases List.mem_cons.mp hy with rfl | hy
      · exact hlow
      · exact hlow.trans (hx y hy)
    · obtain ⟨before, after, rfl, hins, hbefore, hafter⟩ := ih hl
      refine ⟨x :: before, after, rfl, by rw [insertSeam, if_neg hlow, hins, List.cons_append], ?_, hafter⟩
      exact List.forall_mem_cons.mpr ⟨Nat.le_of_not_lt hlow, hbefore⟩

theorem ascending_of_ordered {s : State} (h : SeamListOrdered s) :
    s.seam.list.Pairwise (fun a b => a.coord.toNat < b.coord.toNat) :=
  h.2.imp fun hab => (Nat.le_add_right _ _).trans_lt hab

/-- A record that no entry is near has its place between the lower and the higher entries. -/
theorem insertSeam_place {s : State} {e : SeamEntry} (h : SeamListOrdered s)
    (hfar : ∀ x ∈ s.seam.list, 2000 < ((x.coord.toNat : Int) - e.coord.toNat).natAbs) :
    ∃ before after, s.seam.list = before ++ after ∧ insertSeam e s.seam.list = before ++ e :: after
      ∧ (∀ x ∈ before, x.coord.toNat + 2000 < e.coord.toNat) ∧ ∀ x ∈ after, e.coord.toNat + 2000 < x.coord.toNat := by
  obtain ⟨before, after, hlist, hins, hbefore, hafter⟩ := insertSeam_split e (ascending_of_ordered h)
  refine ⟨before, after, hlist, hins, fun x hx => ?_, fun x hx => ?_⟩
  · have hd := hfar x (hlist ▸ List.mem_append_left _ hx)
    have hle := hbefore x hx
    omega
  · have hd := hfar x (hlist ▸ List.mem_append_right _ hx)
    have hlt := hafter x hx
    omega

/-! ### Entries that leave (R79, R80) -/

/-- A mask of four flags is 0 when none is set. -/
theorem mask_eq_zero_iff (x : BitVec 4) : x = 0 ↔ ∀ i : Cam, x.getLsbD i.val = false := by
  constructor
  · rintro rfl i
    exact BitVec.getLsbD_zero
  · intro h
    exact BitVec.eq_of_getLsbD_eq fun i hi => (h ⟨i, hi⟩).trans BitVec.getLsbD_zero.symm

theorem enabledMask_eq_zero_iff (s : State) : s.enabledMask = 0 ↔ ∀ i : Cam, s.camEnabled i = false := by
  simp only [mask_eq_zero_iff, enabledMask_getLsbD]

/-- Every enabled camera has passed an entry when no enabled camera's flag is clear (R79). -/
theorem allPassed_iff (s : State) (e : SeamEntry) :
    (s.enabledMask &&& ~~~ e.passed == 0) = true ↔ ∀ i : Cam, s.camEnabled i = true → e.passed.getLsbD i.val = true := by
  rw [beq_iff_eq, mask_eq_zero_iff]
  refine forall_congr' fun i => ?_
  rw [BitVec.getLsbD_and, enabledMask_getLsbD, BitVec.getLsbD_not, decide_eq_true i.isLt, Bool.true_and]
  cases s.camEnabled i <;> simp

theorem retired_of_unwatched {s : State} (h : ∀ i : Cam, s.camEnabled i = false) (e : SeamEntry) :
    retired s e = decide (e.coord.toNat ≤ s.strip.xhat.toNat) :=
  if_pos ((enabledMask_eq_zero_iff s).mpr h)

theorem retired_of_watched {s : State} {i : Cam} (h : s.camEnabled i = true) (e : SeamEntry) :
    retired s e = (s.enabledMask &&& ~~~ e.passed == 0) :=
  if_neg fun hzero => Bool.noConfusion (h.symm.trans ((enabledMask_eq_zero_iff s).mp hzero i))

theorem retired_iff (s : State) (e : SeamEntry) : retired s e = true ↔
    (∀ i : Cam, s.camEnabled i = false) ∧ e.coord.toNat ≤ s.strip.xhat.toNat
      ∨ (∃ i : Cam, s.camEnabled i = true) ∧ ∀ i : Cam, s.camEnabled i = true → e.passed.getLsbD i.val = true := by
  by_cases h : ∀ i : Cam, s.camEnabled i = false
  · rw [retired_of_unwatched h]
    simp [h]
  · obtain ⟨i, hi⟩ : ∃ i : Cam, s.camEnabled i = true := by simpa using h
    rw [retired_of_watched hi, allPassed_iff]
    exact ⟨fun hall => .inr ⟨⟨i, hi⟩, hall⟩, fun hout => hout.elim (fun hnone => absurd hnone.1 h) And.right⟩

/-! ### A record offered (R77, R78) -/

/-- The entry that a record makes. -/
def entryOf (r : SeamRecord) (s : State) : SeamEntry :=
  { coord := r.coord, coil := r.coil, origin := r.origin, passed := bornMask s r.coord }

theorem entryOf_passed (r : SeamRecord) (s : State) (i : Cam) : (entryOf r s).passed.getLsbD i.val
    = (s.camEnabled i && decide (r.coord.toNat ≤ s.cams[i].trig.origin.toNat)) := mask_getLsbD (bornPassed s r.coord) i

/-- The seam unit after an insertion. -/
def inserted (r : SeamRecord) (s : State) : SeamUnit :=
  { s.seam with
    list := if retired s (entryOf r s) then s.seam.list else insertSeam (entryOf r s) s.seam.list,
    highest := if s.seam.highest.toNat ≤ r.coil.toNat then r.coil else s.seam.highest,
    latest := if s.seam.highest.toNat ≤ r.coil.toNat then some r else s.seam.latest }

theorem offerSeam_of_near {r : SeamRecord} {s : State}
    (h : ∃ e ∈ s.seam.list, ((e.coord.toNat : Int) - r.coord.toNat).natAbs ≤ 2000) :
    offerSeam r s = { s with seam := { s.seam with merged := satInc s.seam.merged } } := by
  simp only [← within_iff_natAbs, ← List.any_eq_true] at h
  rw [offerSeam, if_pos h]
  rfl

theorem no_within_of_far {r : SeamRecord} {s : State}
    (h : ∀ e ∈ s.seam.list, 2000 < ((e.coord.toNat : Int) - r.coord.toNat).natAbs) :
    ¬ s.seam.list.any (fun e => within e.coord r.coord) = true := by
  simp only [List.any_eq_true, within_iff_natAbs, not_exists, not_and, Nat.not_le]
  exact h

theorem offerSeam_of_full {r : SeamRecord} {s : State}
    (hfar : ∀ e ∈ s.seam.list, 2000 < ((e.coord.toNat : Int) - r.coord.toNat).natAbs) (hfull : 8 ≤ s.seam.list.length) :
    offerSeam r s = { s with seam := { s.seam with lost := satInc s.seam.lost } } := by
  rw [offerSeam, if_neg (no_within_of_far hfar), if_pos (show Config.seamEntries ≤ _ from hfull)]
  rfl

theorem offerSeam_of_room {r : SeamRecord} {s : State}
    (hfar : ∀ e ∈ s.seam.list, 2000 < ((e.coord.toNat : Int) - r.coord.toNat).natAbs) (hroom : s.seam.list.length < 8) :
    offerSeam r s = { s with seam := inserted r s } := by
  rw [offerSeam, if_neg (no_within_of_far hfar), if_neg (show ¬ Config.seamEntries ≤ _ from Nat.not_le.mpr hroom)]
  rfl

end Sys2Proof.SeamsAndCoils
end

section
/-! What the operations of the seam unit and the seam passing of a camera do to the order of the list (R77). -/
namespace Sys2Proof.SeamsAndCoils
open Sys2Proof.Machine Sys2Proof.Safety Sys2Proof.FibreRing Sys2Proof.StationRoll Sys2Proof.StripPosition

/-! ### States whose list has no new coordinate -/

/-- A list stays ordered where coordinates leave it and none joins. -/
theorem ordered_of_coords {s t : State} (h : SeamListOrdered s)
    (hc : (t.seam.list.map SeamEntry.coord).Sublist (s.seam.list.map SeamEntry.coord)) : SeamListOrdered t := by
  obtain ⟨hlen, hpair⟩ := h
  constructor
  · have hle := hc.length_le
    rw [List.length_map, List.length_map] at hle
    exact hle.trans hlen
  · have hmap : (s.seam.list.map SeamEntry.coord).Pairwise (fun a b => a.toNat + Config.mergeDistance < b.toNat) :=
      List.pairwise_map.mpr hpair
    exact List.pairwise_map.mp (hmap.sublist hc)

theorem ordered_of_list {s t : State} (h : SeamListOrdered s) (heq : t.seam.list = s.seam.list) : SeamListOrdered t :=
  ordered_of_coords h (by rw [heq])

theorem ordered_of_seam {s t : State} (h : SeamListOrdered s) (heq : t.seam = s.seam) : SeamListOrdered t :=
  ordered_of_list h (by rw [heq])

theorem ordered_of_empty {t : State} (h : t.seam.list = []) : SeamListOrdered t := by
  rw [SeamListOrdered, h]
  exact ⟨Nat.zero_le _, .nil⟩

/-! ### Offers (R75 to R78, R81) -/

/-- An entry that no other is near joins the list in its place. -/
theorem insertSeam_ordered {s t : State} {e : SeamEntry} (h : SeamListOrdered s) (hroom : s.seam.list.length < 8)
    (hfar : ∀ x ∈ s.seam.list, 2000 < ((x.coord.toNat : Int) - e.coord.toNat).natAbs)
    (ht : t.seam.list = insertSeam e s.seam.list) : SeamListOrdered t := by
  obtain ⟨before, after, hlist, hins, hbefore, hafter⟩ := insertSeam_place h hfar
  obtain ⟨-, hpair⟩ := h
  rw [hlist] at hpair hroom
  obtain ⟨hlow, hhigh, hcross⟩ := List.pairwise_append.mp hpair
  rw [SeamListOrdered, ht, hins]
  constructor
  · rw [List.length_append] at hroom
    rw [List.length_append, List.length_cons]
    exact hroom
  · refine List.pairwise_append.mpr ⟨hlow, List.pairwise_cons.mpr ⟨hafter, hhigh⟩, fun x hx y hy => ?_⟩
    rcases List.mem_cons.mp hy with rfl | hy
    · exact hbefore x hx
    · exact hcross x hx y hy

theorem offerSeam_ordered {r : SeamRecord} {s : State} (h : SeamListOrdered s) : SeamListOrdered (offerSeam r s) := by
  by_cases hnear : ∃ e ∈ s.seam.list, ((e.coord.toNat : Int) - r.coord.toNat).natAbs ≤ 2000
  · rw [offerSeam_of_near hnear]
    exact h
  · have hfar : ∀ e ∈ s.seam.list, 2000 < ((e.coord.toNat : Int) - r.coord.toNat).natAbs := by
      simpa only [not_exists, not_and, Nat.not_le] using hnear
    rcases Nat.lt_or_ge s.seam.list.length 8 with hroom | hfull
    · rw [offerSeam_of_room hfar hroom]
      by_cases hret : retired s (entryOf r s) = true
      · exact ordered_of_list h (if_pos hret)
      · exact insertSeam_ordered (e := entryOf r s) h hroom hfar (if_neg hret)
    · rw [offerSeam_of_full hfar hfull]
      exact h

theorem markOffer_ordered {p : List Byte} {s : State} (h : SeamListOrdered s) : SeamListOrdered (markOffer p s) := by
  unfold markOffer
  split
  · exact offerSeam_ordered h
  · exact h

theorem latestSeamOffer_ordered {p : List Byte} {s : State} (h : SeamListOrdered s) :
    SeamListOrdered (latestSeamOffer p s) := by
  unfold latestSeamOffer
  split
  · exact offerSeam_ordered h
  · exact h

theorem offerKeptSeam_ordered {s : State} (h : SeamListOrdered s) : SeamListOrdered (offerKeptSeam s) := by
  unfold offerKeptSeam
  split
  · exact offerSeam_ordered h
  · exact h

theorem offerPeer_ordered {k : Kind} {p : List Byte} {s : State} (h : SeamListOrdered s) :
    SeamListOrdered (offerPeer k p s) := by
  cases k with
  | line | ease | status | signon => exact ordered_of_seam h (by simp [offerPeer])
  | beacon => exact latestSeamOffer_ordered (ordered_of_seam h (by simp))
  | mark => exact markOffer_ordered h

theorem forward_ordered {p : List Byte} {s : State} (h : SeamListOrdered s) : SeamListOrdered (forward p s) :=
  ordered_of_seam h (by simp)

theorem processArrival_ordered {r : Reception} {s : State} (h : SeamListOrdered s) :
    SeamListOrdered (processArrival r s) := by
  unfold processArrival processKnown
  split
  · split
    · split
      · split
        · exact ordered_of_seam h (by simp)
        · split
          · exact h
          · exact forward_ordered (offerPeer_ordered h)
      · exact h
    · exact h
  · exact h

/-! ### The coordinate update (R73, R79, R80, R87) -/

theorem processCapture_ordered {c : Capture} {s : State} (h : SeamListOrdered s) :
    SeamListOrdered (processCapture c s) := by
  unfold processCapture
  split
  · exact h
  · split
    · refine offerSeam_ordered (ordered_of_list h ?_)
      split <;> simp
    · exact h

theorem seamUpdate_ordered {s : State} (h : SeamListOrdered s) : SeamListOrdered (seamUpdate s) := by
  unfold seamUpdate
  split
  · have hall : SeamListOrdered ((captures s.seam).foldl (fun t c => processCapture c t)
        (onSeam (fun u => { u with capture0 := none, capture1 := none }) s)) :=
      List.foldlRecOn _ _ (motive := SeamListOrdered) h fun _ ht _ _ => processCapture_ordered ht
    simp only
    split
    · exact ordered_of_coords hall (List.filter_sublist.map _)
    · exact hall
  · exact h

theorem flagPassed_coord (i : Cam) (c : Coord) (e : SeamEntry) : (flagPassed i c e).coord = e.coord := by
  unfold flagPassed
  split <;> rfl

theorem passSeams_ordered {i : Cam} {x : Coord} {s : State} (h : SeamListOrdered s) :
    SeamListOrdered (passSeams i x s) := by
  unfold passSeams
  split
  next e _ =>
    have hcoords : (s.seam.list.map (flagPassed i e.coord)).map SeamEntry.coord = s.seam.list.map SeamEntry.coord := by
      rw [List.map_map]
      exact List.map_congr_left fun m _ => flagPassed_coord i e.coord m
    exact ordered_of_coords h (hcoords ▸ List.filter_sublist.map _)
  next => exact h

theorem cameraUpdate_ordered {i : Cam} {s : State} (h : SeamListOrdered s) : SeamListOrdered (cameraUpdate i s) := by
  unfold cameraUpdate
  split
  · exact h
  · split
    · split
      case h_1 | h_2 | h_3 => exact ordered_of_seam (passSeams_ordered h) rfl
      all_goals exact h
    · exact h

/-- What each of the six parties keeps, a coordinate update keeps in every order (R45). -/
theorem updateInOrder_keeps {P : State → Prop} (hstrip : ∀ s, P s → P (stripUpdate s)) (hseam : ∀ s, P s → P (seamUpdate s))
    (hcam : ∀ i s, P s → P (cameraUpdate i s)) (o : UpdateOrder) {s : State} (h : P s) : P (updateInOrder o s) := by
  rw [updateInOrder_eq]
  refine List.foldlRecOn _ _ (motive := P) h fun t ht party hparty => ?_
  have hmem := (partiesInOrder_perm o).mem_iff.mp hparty
  simp only [List.mem_cons, List.not_mem_nil, or_false] at hmem
  rcases hmem with rfl | rfl | rfl | rfl | rfl | rfl
  · exact hstrip t ht
  · exact hseam t ht
  all_goals exact hcam _ t ht

theorem updateInOrder_ordered {o : UpdateOrder} {s : State} (h : SeamListOrdered s) : SeamListOrdered (updateInOrder o s) :=
  updateInOrder_keeps (fun _ ht => ordered_of_seam ht (by simp)) (fun _ ht => seamUpdate_ordered ht)
    (fun _ _ ht => cameraUpdate_ordered ht) o h

end Sys2Proof.SeamsAndCoils
end

section
/-! Every step keeps the seam list in order (O55). -/
namespace Sys2Proof.SeamsAndCoils
open Sys2Proof.Machine Sys2Proof.Safety Sys2Proof.FibreRing Sys2Proof.StationRoll Sys2Proof.StripPosition

/-! ### The commands that leave the list as it was -/

/-- The commands that can change the seam list. -/
def touchesSeamList : Instr → Bool
  | .powerOnReset _ _ _ | .parcelArrival _ | .eepromReadComplete | .coordinateUpdate | .restart _ _ _ => true
  | _ => false

/-- An edge leaves the seam list as it was. -/
@[simp] theorem capture_list (c : Capture) (u : SeamUnit) : (capture c u).list = u.list := by
  unfold capture
  split <;> rfl

/-- The outcome is a next state with the seam list of `s`. -/
def KeepsList (s : State) : Host.Outcome State Fault Refusal → Prop := NextHas (fun t => t.seam.list = s.seam.list)

theorem keepsList {s t : State} (h : t.seam.list = s.seam.list) : KeepsList s (.next t) := nextHas h

theorem keepsList_ite {b : Prop} [Decidable b] {s t : State} (h : t.seam.list = s.seam.list) :
    KeepsList s (.next (if b then t else s)) := nextHas_ite rfl fun _ => h

/-- Every other command leaves the seam list as it was. -/
theorem exec_seamList {c : Instr} (s : State) (hc : touchesSeamList c = false) : KeepsList s (exec c s) := by
  cases c with
  | powerOnReset | parcelArrival | eepromReadComplete | coordinateUpdate | restart => cases hc
  | dlvHold | incompleteFrame | item | high | eelo | eehi | eeread | clear | unknownCommand => exact keepsList rfl
  | partialDrop | clashExpiry | silenceExpiry | speedWindowExpiry | triggerPulseEnd | lastTriggerTimeLapse | darkExpiry
  | dlvCut => exact keepsList_ite rfl
  | lossOfLightOrLock | encoderSample => exact keepsList (by simp)
  | inboundUp | alignmentRunEnd | returnWatchExpiry | easeWindowExpiry | easeEntryExpiry => exact keepsList_ite (by simp)
  | lightAndLock | sendCompletion | syncingCharacter | signonTimerExpiry | statusTimerExpiry | eepromWriteCompletion
  | indexPulse | cleanExpiry | beaconTimerExpiry | staleExpiry | removalExpiry | alignmentEnd
  | seamEdge | triggerTimeout | lineValidRise | assemblyTimeout | dlvTake | nop | roll | eeaddr | eewrite =>
    refine keepsList ?_
    (repeat' split) <;> simp
  | lineCompletion =>
    refine keepsList_ite ?_
    simp only
    (repeat' split) <;> simp

/-! ### The commands that can change it -/

theorem eepromReadComplete_ordered {s : State} (h : SeamListOrdered s) :
    NextHas SeamListOrdered (exec .eepromReadComplete s) := by
  refine nextHas_ite h fun _ => ?_
  simp only
  split
  · have hblocks : SeamListOrdered (blocksJoined (recordSettings s.store.eeprom) (joiningControl s)) :=
      ordered_of_seam h (by simp [blocksJoined_rest, joiningControl, takeSettings, finishRead])
    have hjoining : SeamListOrdered (joiningStation s) := offerKeptSeam_ordered hblocks
    rw [enterJoining_takeSettings]
    refine ordered_of_seam hjoining ?_
    simp only
    (repeat' split) <;> simp
  · rw [enterPassOnly_finishRead]
    refine ordered_of_seam h ?_
    split <;> simp [passOnlyStation]

theorem restart_ordered {arg : BitVec 12} {straps : Station} {o : OpenParcel} {s : State} (h : SeamListOrdered s) :
    NextHas SeamListOrdered (exec (.restart arg straps o) s) := by
  show NextHas SeamListOrdered (execRestart arg straps o s)
  unfold execRestart
  simp only
  split
  · exact nextHas h
  · exact nextHas (ordered_of_empty rfl)

/-- Every command keeps the seam list in order. -/
theorem exec_ordered (c : Instr) {s : State} (h : SeamListOrdered s) : NextHas SeamListOrdered (exec c s) := by
  cases hc : touchesSeamList c with
  | false => exact (exec_seamList s hc).mono fun _ => ordered_of_list h
  | true =>
    cases c with
    | powerOnReset => exact nextHas (ordered_of_empty rfl)
    | parcelArrival => exact nextHas_ite h fun _ => processArrival_ordered h
    | eepromReadComplete => exact eepromReadComplete_ordered h
    | coordinateUpdate => exact nextHas_ite h fun _ => updateInOrder_ordered h
    | restart => exact restart_ordered h
    | _ => cases hc

theorem idleStep_seam (s : State) : (idleStep s).seam = s.seam := by
  unfold idleStep
  split
  · unfold tick readOn
    split <;> rfl
  all_goals rfl

/-- Settles O55: every command and the idle step keep the seam list in order. -/
theorem stepsKeepTheSeamList : Obligations.StepsKeepTheSeamList :=
  kept_of_exec (fun _ _ h => h) (fun s h => ordered_of_seam h (idleStep_seam s)) fun c _ => exec_ordered c

end Sys2Proof.SeamsAndCoils
end

section
/-! Seam records from peers, and what the list does with a record (O20). -/
namespace Sys2Proof.SeamsAndCoils
open Sys2Proof.Machine Sys2Proof.Safety Sys2Proof.FibreRing Sys2Proof.StationRoll Sys2Proof.StripPosition

/-! ### Records from peers (R75, R76) -/

theorem markOffer_eq (p : List Byte) (s : State) : markOffer p s = if s.ctl.state ≠ .start ∧ s.ctl.state ≠ .passOnly then
    offerSeam { coord := markCoord p, coil := markCoil p, origin := sourceField p } s else s :=
  if_congr (runs_iff _) rfl rfl

theorem latestSeamOffer_eq (p : List Byte) (s : State) : latestSeamOffer p s =
    if s.ctl.state ≠ .start ∧ s.ctl.state ≠ .passOnly then
      if s.seam.highest.toNat < (beaconCoil p).toNat then
        offerSeam { coord := beaconSeam p, coil := beaconCoil p, origin := sourceField p } s
      else s
    else s := by
  rw [latestSeamOffer, ← ite_and]
  exact if_congr (by rw [Bool.and_eq_true, runs_iff, decide_eq_true_iff]) rfl rfl

theorem seamOffers_by_state (p : List Byte) (s : State) :
    (s.ctl.state = .start ∨ s.ctl.state = .passOnly → markOffer p s = s ∧ latestSeamOffer p s = s)
    ∧ (s.ctl.state ≠ .start → s.ctl.state ≠ .passOnly →
        markOffer p s = offerSeam { coord := markCoord p, coil := markCoil p, origin := sourceField p } s
        ∧ latestSeamOffer p s = if s.seam.highest.toNat < (beaconCoil p).toNat then
            offerSeam { coord := beaconSeam p, coil := beaconCoil p, origin := sourceField p } s else s) := by
  rw [markOffer_eq, latestSeamOffer_eq]
  constructor
  · intro h
    have hidle : ¬ (s.ctl.state ≠ .start ∧ s.ctl.state ≠ .passOnly) := by tauto
    exact ⟨if_neg hidle, if_neg hidle⟩
  · exact fun hstart hpass => ⟨if_pos ⟨hstart, hpass⟩, if_pos ⟨hstart, hpass⟩⟩

/-- Settles O20, by the distance of the record from the entries and the room in the list. -/
theorem seamRecordsAreTaken : Obligations.SeamRecordsAreTaken := by
  refine ⟨seamOffers_by_state, fun r s => ⟨offerSeam_of_near, offerSeam_of_full, fun hfar hroom hordered => ?_⟩⟩
  obtain ⟨before, after, hlist, hins, hbefore, hafter⟩ := insertSeam_place (e := entryOf r s) hordered hfar
  refine ⟨entryOf r s, before, after, hlist, fun x hx => Nat.lt_of_add_right_lt (hbefore x hx),
    fun x hx => Nat.lt_of_add_right_lt (hafter x hx), rfl, rfl, rfl, entryOf_passed r s, ?_⟩
  rw [offerSeam_of_room hfar hroom, inserted, hins]
  simp only [retired_iff]
  rfl

end Sys2Proof.SeamsAndCoils
end

section
/-! Seam edges, and the captures of a coordinate update (O44). -/
namespace Sys2Proof.SeamsAndCoils
open Sys2Proof.Machine Sys2Proof.Safety Sys2Proof.FibreRing Sys2Proof.StationRoll Sys2Proof.StripPosition

/-! ### Seam edges (R71, R72) -/

theorem seamStation_of_some {s : State} {t : Settings} (h : s.store.settings = some t) : s.seamStation = t.seamInput := by
  rw [State.seamStation, h]

theorem exec_seamEdge_of_off {s : State} (h : s.ctl.state.runs = false ∨ s.seamStation = false) :
    exec .seamEdge s = .next s := by
  show execSeamEdge s = _
  unfold execSeamEdge
  cases ht : s.store.settings with
  | none => rfl
  | some t =>
    rw [seamStation_of_some ht] at h
    exact congrArg _ (if_neg (by rcases h with h | h <;> simp [h]))

/-- The seam unit that captures an accepted edge (R71, R72). -/
def edgeTaken (t : Settings) (s : State) : SeamUnit :=
  capture { xhat := s.strip.xhat, clock := s.strip.clock } { s.seam with lockoutEnd := coordOf (s.strip.xhat.toNat + t.lockout) }

theorem exec_seamEdge_of_on {s : State} {t : Settings} (hruns : s.ctl.state.runs = true) (ht : s.store.settings = some t)
    (hinput : t.seamInput = true) : exec .seamEdge s = .next
      (if s.seam.lockoutEnd.toNat ≤ s.strip.xhat.toNat then { s with seam := edgeTaken t s }
      else { s with seam := { s.seam with bounces := satInc s.seam.bounces } }) := by
  show execSeamEdge s = _
  unfold execSeamEdge
  rw [ht]
  exact congrArg _ (if_pos (by rw [hruns, hinput]; rfl))

theorem edgeTaken_of_first {t : Settings} {s : State} (h : s.seam.capture0 = none) : edgeTaken t s = { s.seam with
    lockoutEnd := coordOf (s.strip.xhat.toNat + t.lockout),
    capture0 := some { xhat := s.strip.xhat, clock := s.strip.clock }, olderIsOne := true } := by
  simp only [edgeTaken, capture, h]

theorem edgeTaken_of_second {t : Settings} {s : State} (h0 : s.seam.capture0 ≠ none) (h1 : s.seam.capture1 = none) :
    edgeTaken t s = { s.seam with
      lockoutEnd := coordOf (s.strip.xhat.toNat + t.lockout),
      capture1 := some { xhat := s.strip.xhat, clock := s.strip.clock }, olderIsOne := false } := by
  obtain ⟨a, ha⟩ := Option.ne_none_iff_exists'.mp h0
  simp only [edgeTaken, capture, ha, h1]

theorem edgeTaken_of_full {t : Settings} {s : State} (h0 : s.seam.capture0 ≠ none) (h1 : s.seam.capture1 ≠ none) :
    edgeTaken t s = { s.seam with
      lockoutEnd := coordOf (s.strip.xhat.toNat + t.lockout), captureOverflows := satInc s.seam.captureOverflows } := by
  obtain ⟨a, ha⟩ := Option.ne_none_iff_exists'.mp h0
  obtain ⟨b, hb⟩ := Option.ne_none_iff_exists'.mp h1
  simp only [edgeTaken, capture, ha, hb]

/-! ### The captures at an update (R73, R74, R80) -/

/-- What the settings enable depends on the settings store alone. -/
theorem camEnabled_of_store {s t : State} (h : t.store = s.store) (i : Cam) : t.camEnabled i = s.camEnabled i := by
  unfold State.camEnabled State.camSettings
  rw [h]

/-- The state after the captures of an update, with both records free. -/
def capturesProcessed (s : State) : State :=
  (captures s.seam).foldl (fun t c => processCapture c t) (onSeam (fun u => { u with capture0 := none, capture1 := none }) s)

theorem capturesProcessed_camEnabled (s : State) (i : Cam) : (capturesProcessed s).camEnabled i = s.camEnabled i :=
  camEnabled_of_store (by simp [capturesProcessed, processAll_rest]) i

theorem capturesProcessed_strip (s : State) : (capturesProcessed s).strip = s.strip := by
  simp [capturesProcessed, processAll_rest]

theorem seamUpdate_eq {s : State} (h : s.ctl.state.runs = true) : seamUpdate s =
    if (capturesProcessed s).enabledMask = 0 then
      onSeam (fun u => { u with list := u.list.filter (fun e => !retired (capturesProcessed s) e) }) (capturesProcessed s)
    else capturesProcessed s := if_pos h

theorem seamUpdate_of_watched {s : State} (h : s.ctl.state.runs = true) (hcam : ∃ i : Cam, s.camEnabled i = true) :
    seamUpdate s = capturesProcessed s := by
  obtain ⟨i, hi⟩ := hcam
  rw [seamUpdate_eq h, if_neg]
  rw [enabledMask_eq_zero_iff]
  intro hnone
  exact Bool.noConfusion (((capturesProcessed_camEnabled s i).trans hi).symm.trans (hnone i))

/-- With no enabled camera the entries that X̂ has reached leave the list (R80). -/
theorem seamUpdate_of_unwatched {s : State} (h : s.ctl.state.runs = true) (hcam : ∀ i : Cam, s.camEnabled i = false) :
    seamUpdate s = { capturesProcessed s with seam := { (capturesProcessed s).seam with
      list := (capturesProcessed s).seam.list.filter (fun e => decide (s.strip.xhat.toNat < e.coord.toNat)) } } := by
  have hoff : ∀ i : Cam, (capturesProcessed s).camEnabled i = false := fun i => (capturesProcessed_camEnabled s i).trans (hcam i)
  have hretired : ∀ e, (!retired (capturesProcessed s) e) = decide (s.strip.xhat.toNat < e.coord.toNat) := by
    intro e
    rw [retired_of_unwatched hoff, capturesProcessed_strip, ← decide_not]
    exact decide_eq_decide.mpr Nat.not_le
  rw [seamUpdate_eq h, if_pos ((enabledMask_eq_zero_iff _).mpr hoff)]
  simp only [hretired]
  rfl

theorem processCapture_of_unplaceable {c : Capture} {s : State}
    (h : c.clock = .held ∨ c.clock = .none ∨ s.strip.clock = .held ∨ s.strip.clock = .none) :
    processCapture c s = { s with seam := { s.seam with unplaced := satInc s.seam.unplaced } } := by
  have hdrop : (unplaceable c.clock || unplaceable s.strip.clock) = true := by
    rw [Bool.or_eq_true, unplaceable_iff, unplaceable_iff]
    tauto
  rw [processCapture, if_pos hdrop]
  rfl

/-- The seam that a capture becomes: of the next coil, at its distance from the detector (R73). -/
def capturedSeam (t : Settings) (c : Capture) (s : State) : SeamRecord :=
  { coord := coordOf (c.xhat.toNat - t.detectorOffset), coil := satInc s.seam.highest, origin := s.ctl.number }

theorem processCapture_of_placeable {c : Capture} {s : State} {t : Settings} (hheld : c.clock ≠ .held) (hnone : c.clock ≠ .none)
    (hheldNow : s.strip.clock ≠ .held) (hnoneNow : s.strip.clock ≠ .none) (ht : s.store.settings = some t) :
    processCapture c s = offerSeam (capturedSeam t c s)
      (if s.ctl.state = .joining ∨ s.ctl.state = .running ∨ s.ctl.state = .ringOpen then
        placeMark (capturedSeam t c s).coord (capturedSeam t c s).coil
          { s with seam := { s.seam with placed := satInc s.seam.placed } }
      else { s with seam := { s.seam with placed := satInc s.seam.placed } }) := by
  have hplace : ¬ (unplaceable c.clock || unplaceable s.strip.clock) = true := by
    rw [Bool.or_eq_true, unplaceable_iff, unplaceable_iff]
    tauto
  rw [processCapture, if_neg hplace, ht]
  exact congrArg (offerSeam (capturedSeam t c s)) (if_congr (inserts_iff s.ctl.state) rfl rfl)

/-- Settles O44: an edge by the lockout and the free records, then the captures of an update, then one capture by the clocks. -/
theorem seamEdgesAndCaptures : Obligations.SeamEdgesAndCaptures := by
  refine ⟨fun _ => exec_seamEdge_of_off, fun t s hruns ht hinput => ?_, fun s h => if_neg (by simp [h]),
    fun l s u hruns hl hu => ?_, fun c s => ⟨processCapture_of_unplaceable, fun t hheld hnone hheldNow hnoneNow ht => ?_⟩⟩
  · rw [exec_seamEdge_of_on hruns ht hinput]
    refine ⟨fun hbounce => by rw [if_neg (Nat.not_le.mpr hbounce)], fun hopen =>
      ⟨coordOf (s.strip.xhat.toNat + t.lockout), { xhat := s.strip.xhat, clock := s.strip.clock }, ?_, rfl, ?_⟩⟩
    · rw [coordOf_toNat]
      omega
    · rw [if_pos hopen]
      exact ⟨fun h0 => by rw [edgeTaken_of_first h0], fun h0 h1 => by rw [edgeTaken_of_second h0 h1],
        fun h0 h1 => by rw [edgeTaken_of_full h0 h1]⟩
  · obtain rfl : l = captures s.seam := hl
    obtain rfl : u = capturesProcessed s := hu
    exact ⟨seamUpdate_of_watched hruns, seamUpdate_of_unwatched hruns⟩
  · refine ⟨capturedSeam t c s, coordOf_toNat _, ?_, rfl, processCapture_of_placeable hheld hnone hheldNow hnoneNow ht⟩
    exact (satInc_toNat _).trans (Nat.min_comm _ _)

end Sys2Proof.SeamsAndCoils
end

section
/-! The cameras that pass seams (O45). -/
namespace Sys2Proof.SeamsAndCoils
open Sys2Proof.Machine Sys2Proof.Safety Sys2Proof.FibreRing Sys2Proof.StationRoll Sys2Proof.StripPosition

/-! ### Seam passing (R79, R87) -/

theorem passable_iff (i : Cam) (o x : Coord) (e : SeamEntry) : passable i o x e = true ↔
    e.passed.getLsbD i.val = false ∧ o.toNat < e.coord.toNat ∧ e.coord.toNat ≤ x.toNat := by
  rw [passable, bit, Bool.and_eq_true, Bool.not_eq_true', decide_eq_true_iff]

theorem highestSeam_eq_none {q : SeamEntry → Bool} {l : List SeamEntry} (h : ∀ e ∈ l, ¬ q e = true) :
    highestSeam q l = none := by
  induction l with
  | nil => rfl
  | cons x l ih =>
    obtain ⟨hx, hl⟩ := List.forall_mem_cons.mp h
    rw [highestSeam, ih hl]
    exact if_neg hx

/-- In an ascending list the highest of the entries admitted is the last of them. -/
theorem highestSeam_eq_some {q : SeamEntry → Bool} {l : List SeamEntry} {e : SeamEntry}
    (hl : l.Pairwise (fun a b => a.coord.toNat < b.coord.toNat)) (he : e ∈ l) (hq : q e = true)
    (hmax : ∀ m ∈ l, q m = true → m.coord.toNat ≤ e.coord.toNat) : highestSeam q l = some e := by
  induction l with
  | nil => cases he
  | cons x l ih =>
    obtain ⟨hx, hl⟩ := List.pairwise_cons.mp hl
    obtain ⟨-, htail⟩ := List.forall_mem_cons.mp hmax
    rcases List.mem_cons.mp he with rfl | he
    · have hnone : highestSeam q l = none :=
        highestSeam_eq_none fun m hm hqm => absurd (htail m hm hqm) (Nat.not_le.mpr (hx m hm))
      rw [highestSeam, hnone]
      exact if_pos hq
    · rw [highestSeam, ih hl he htail]
      exact if_neg fun hlow => absurd hlow.2 (Nat.lt_asymm (hx e he))

/-- The flag of camera `i` in a passed-by mask. -/
theorem flagBit_getLsbD (i j : Cam) : (BitVec.ofNat 4 (2 ^ i.val)).getLsbD j.val = (j == i) := by
  decide +revert

/-- An entry at or below the seam that camera `i` passes gets its flag; all else of it stays (R87). -/
theorem flagPassed_spec (i : Cam) (c : Coord) (m : SeamEntry) :
    flagPassed i c m = { m with passed := (flagPassed i c m).passed }
      ∧ ∀ j : Cam, (flagPassed i c m).passed.getLsbD j.val
          = (m.passed.getLsbD j.val || (j == i && decide (m.coord.toNat ≤ c.toNat))) := by
  unfold flagPassed
  split
  next hle =>
    refine ⟨rfl, fun j => ?_⟩
    rw [BitVec.getLsbD_or, flagBit_getLsbD, decide_eq_true hle, Bool.and_true]
  next hgt =>
    refine ⟨rfl, fun j => ?_⟩
    rw [decide_eq_false hgt, Bool.and_false, Bool.or_false]

/-- With an enabled camera the entries that stay are those which an enabled camera has not passed (R79). -/
theorem not_retired_of_watched {s : State} {i : Cam} (h : s.camEnabled i = true) (e : SeamEntry) :
    (!retired s e) = (List.finRange 4).any (fun j => s.camEnabled j && !e.passed.getLsbD j.val) := by
  rw [retired_of_watched h, Bool.eq_iff_iff, Bool.not_eq_true', ← Bool.not_eq_true, allPassed_iff]
  simp

/-- Settles O45: the highest open entry is the one the model finds, and the flags entry by entry. -/
theorem camerasPassSeams : Obligations.CamerasPassSeams := by
  intro i x s open_ hopen
  have hq : ∀ e, passable i s.cams[i].trig.origin x e = true ↔ open_ e :=
    fun e => (passable_iff _ _ _ _).trans (hopen e).symm
  unfold passSeams
  refine ⟨fun hnone => ?_, fun hordered hcam e he ho hmax => ?_⟩
  · rw [highestSeam_eq_none fun e he hp => hnone e he ((hq e).mp hp)]
  · rw [highestSeam_eq_some (ascending_of_ordered hordered) he ((hq e).mpr ho) fun m hm hp => hmax m hm ((hq m).mp hp)]
    refine ⟨s.seam.list.map (flagPassed i e.coord), ?_, List.length_map _, fun k m f hm hf => ?_⟩
    · simp only [← not_retired_of_watched hcam]
      rfl
    · rw [List.getElem?_map, hm] at hf
      obtain rfl : flagPassed i e.coord m = f := Option.some.inj hf
      exact flagPassed_spec i e.coord m

end Sys2Proof.SeamsAndCoils
end

section
/-! What the trigger generator and the camera ports do to one camera, for every proof about a trigger or a line: the updates of a
camera as record updates, the firing decisions case by case (Section 5), and what a record leaves of the camera it came from. -/
namespace Sys2Proof.LineTriggering
open Sys2Proof.Machine Sys2Proof.Safety Sys2Proof.FibreRing Sys2Proof.StationRoll Sys2Proof.StripPosition
open Sys2Proof.SeamsAndCoils

/-! ### One camera of the state -/

/-- Putting back the entry that stands there. -/
@[simp] theorem put_get_self {α : Type} {n : Nat} (v : Vector α n) (i : Fin n) : put v i v[i] = v := by
  simp [put]

theorem onTrig_eq (s : State) (i : Cam) (f : Trigger → Trigger) : s.onTrig i f = { s with
    cams := put s.cams i { s.cams[i] with trig := f s.cams[i].trig } } := rfl

theorem onPort_eq (s : State) (i : Cam) (f : CameraPort → CameraPort) : s.onPort i f = { s with
    cams := put s.cams i { s.cams[i] with port := f s.cams[i].port } } := rfl

theorem onTrig_of_fixed {s : State} {i : Cam} {f : Trigger → Trigger} (h : f s.cams[i].trig = s.cams[i].trig) :
    s.onTrig i f = s := by
  rw [onTrig_eq, h, put_get_self]

/-- Two updates of one camera's port, one after the other. -/
theorem onPort_onPort (s : State) (i : Cam) (f g : CameraPort → CameraPort) :
    (s.onPort i f).onPort i g = s.onPort i (fun p => g (f p)) := by
  simp [State.onPort, State.onCam, change, put]

theorem onPort_trig (s : State) (i : Cam) (f : CameraPort → CameraPort) : (s.onPort i f).cams[i].trig = s.cams[i].trig := by
  rw [onPort_eq, put_self]

theorem onAdm_trig (s : State) (i : Cam) (f : Admission → Admission) : (s.onAdm i f).cams[i].trig = s.cams[i].trig := by
  rw [State.onAdm_self, change, put_self]

theorem onTrig_port (s : State) (i : Cam) (f : Trigger → Trigger) : (s.onTrig i f).cams[i].port = s.cams[i].port := by
  rw [onTrig_eq, put_self]

/-- The settings of a camera depend on the settings store alone. -/
theorem camSettings_of_store {s t : State} (h : t.store = s.store) (i : Cam) : t.camSettings i = s.camSettings i := by
  rw [State.camSettings, State.camSettings, h]

theorem camEnabled_of_camSettings {s : State} {i : Cam} {c : CameraSettings} (h : s.camSettings i = some c) :
    s.camEnabled i = c.enabled := by
  rw [State.camEnabled, h]

/-! ### What a record leaves of its camera and of the station state (R114, R120 to R122) -/

theorem admitLine_trig (i : Cam) (r : LineRecord) (s : State) : (admitLine i r s).cams[i].trig = s.cams[i].trig := by
  unfold admitLine
  simp only [freeWhileIdle_rest]
  exact onAdm_trig _ _ _

theorem admitLine_ctl (i : Cam) (r : LineRecord) (s : State) : ControlStep s.ctl (admitLine i r s).ctl := by
  unfold admitLine
  refine ControlStep.trans ?_ (freeWhileIdle_ctl _)
  exact ControlStep.refl _

/-- The admission of a record leaves the trigger generator of its camera. -/
theorem present_trig (i : Cam) (r : LineRecord) (s : State) : (present i r s).cams[i].trig = s.cams[i].trig := by
  unfold present
  dsimp only
  split
  · exact onAdm_trig _ _ _
  · split
    · rw [onAdm_trig, onAdm_trig]
    · split
      · rw [admitLine_trig, onAdm_trig]
      · rw [onAdm_trig, onAdm_trig]

/-- The admission of a record does to station control what an outbound-free event can do. -/
theorem present_ctl (i : Cam) (r : LineRecord) (s : State) : ControlStep s.ctl (present i r s).ctl := by
  unfold present
  dsimp only
  split
  · exact ControlStep.refl _
  · split
    · exact ControlStep.refl _
    · split
      · exact admitLine_ctl _ _ (s.onAdm i _)
      · exact ControlStep.refl _

theorem makeRecord_trig (i : Cam) (tags : Tags) (deep : Bool) (pixels : List Nat) (clips : Nat) (s : State) :
    (makeRecord i tags deep pixels clips s).cams[i].trig = s.cams[i].trig :=
  (present_trig _ _ _).trans (onPort_trig _ _ _)

theorem makeRecord_ctl (i : Cam) (tags : Tags) (deep : Bool) (pixels : List Nat) (clips : Nat) (s : State) :
    ControlStep s.ctl (makeRecord i tags deep pixels clips s).ctl :=
  present_ctl _ _ (s.onPort i _)

theorem runs_of_controlStep {c d : StationControl} (h : ControlStep c d) (hruns : c.state.runs = true) : d.state.runs = true := by
  rcases h.state with hsame | ⟨-, hopen⟩
  · rw [hsame, hruns]
  · rw [hopen]
    rfl

/-! ### The position flags (R91) -/

theorem positionFlags_of_placed {clock : ClockState} (h : clock = .loc ∨ clock = .following ∨ clock = .coasting) (b : Bool) :
    positionFlags clock b = (if clock = .coasting then 0x0008 else 0) ||| (if b = true then 0x0020 else 0) := by
  rcases h with rfl | rfl | rfl <;> cases b <;> rfl

theorem positionFlags_of_unplaced {clock : ClockState} (h : clock = .held ∨ clock = .none) (b : Bool) :
    positionFlags clock b = 0x0010 ||| (if b = true then 0x0020 else 0) := by
  rcases h with rfl | rfl <;> cases b <;> rfl

theorem positionFlags_eq (clock : ClockState) (b : Bool) : positionFlags clock b =
    (if clock = .coasting then 0x0008 else 0) ||| (if clock = .held ∨ clock = .none then 0x0010 else 0)
      ||| (if b = true then 0x0020 else 0) := by
  cases clock <;> rfl

/-! ### The decision of a position trigger (R88, R89, R92) -/

theorem tooSoon_iff (now : Time) (c : CameraSettings) (t : Trigger) :
    tooSoon now c t = true ↔ ∃ l, t.lastTrigger = some l ∧ (now - l).toNat < c.minInterval := by
  unfold tooSoon
  cases t.lastTrigger with
  | none => simp
  | some l =>
    simp only [Option.some.injEq, exists_eq_left']
    exact decide_eq_true_iff

theorem beyondFirstCoil_iff (clock : ClockState) (x : Coord) (t : Trigger) : beyondFirstCoil clock x t = true ↔
    (clock = .following ∨ clock = .coasting) ∧ t.coil = 0 ∧ t.origin = 0 ∧ 4294967295 < x.toNat := by
  simp [beyondFirstCoil, and_assoc]

/-- The trigger whose index `n` has been decided, whatever came of it (R89). -/
def decided (n : Nat) (t : Trigger) : Trigger :=
  { t with nLast := n, skipped := satAdd t.skipped ((n : Int) - t.nLast - 1).toNat }

theorem decideTrigger_of_soon {now : Time} {c : CameraSettings} {t : Trigger} (clock : ClockState) (n : Nat)
    (h : tooSoon now c t = true) :
    decideTrigger now clock c n t = { decided n t with overspeed := satInc t.overspeed } := by
  unfold decideTrigger
  simp only [if_pos h]
  rfl

theorem decideTrigger_of_full {now : Time} {c : CameraSettings} {t : Trigger} (clock : ClockState) (n : Nat)
    (h : ¬ tooSoon now c t = true) (hfull : Config.fifoRecords ≤ t.fifo.length) :
    decideTrigger now clock c n t = { decided n t with suppressed := satInc t.suppressed } := by
  unfold decideTrigger
  simp only [if_neg h, if_pos hfull]
  rfl

theorem decideTrigger_of_room {now : Time} {c : CameraSettings} {t : Trigger} (clock : ClockState) (n : Nat)
    (h : ¬ tooSoon now c t = true) (hroom : ¬ Config.fifoRecords ≤ t.fifo.length) : decideTrigger now clock c n t =
      fire now t.coil (BitVec.ofNat 32 (n * c.pitch)) (positionFlags clock t.sourceChange) (decided n t) := by
  unfold decideTrigger
  simp only [if_neg h, if_neg hroom]
  rfl

/-- The trigger with its coil-relative coordinate taken from the camera's strip coordinate `x` (R88). -/
def located (x : Coord) (t : Trigger) : Trigger := { t with current := coilCoordOf ((x.toNat : Int) - t.origin.toNat) }

theorem positionTrigger_eq (now : Time) (clock : ClockState) (c : CameraSettings) (x : Coord) (t : Trigger) :
    positionTrigger now clock c x t =
      if c.free = false ∧ ¬ beyondFirstCoil clock x (located x t) = true
          ∧ t.nLast < ((located x t).current.toNat / c.pitch : Nat) then
        decideTrigger now clock c ((located x t).current.toNat / c.pitch) (located x t)
      else located x t :=
  if_congr (by simp only [Bool.and_eq_true, Bool.not_eq_true', decide_eq_true_iff, Bool.not_eq_true, and_assoc]; rfl) rfl rfl

/-! ### The fallback trigger (R93) -/

theorem fallbackDue_iff (now : Time) (c : CameraSettings) (t : Trigger) :
    fallbackDue now c t = true ↔ ∀ m, t.fallbackMark = some m → c.fallback ≤ (now - m).toNat := by
  unfold fallbackDue
  cases t.fallbackMark <;> simp [reached_iff]

theorem fallbackTrigger_eq (now : Time) (clock : ClockState) (c : CameraSettings) (t : Trigger) :
    fallbackTrigger now clock c t =
      if c.free = false ∧ 0 < c.fallback ∧ fallbackDue now c t = true then
        if 4 ≤ t.fifo.length then { t with fallbackMark := some now, suppressed := satInc t.suppressed }
        else fire now t.coil t.current (positionFlags clock t.sourceChange) { t with fallbackMark := some now }
      else t :=
  if_congr (by simp [and_assoc]) rfl rfl

/-! ### A camera at a coordinate update, by the strip clock (Table 5.2) -/

theorem cameraUpdate_of_off {i : Cam} {s : State} (h : s.ctl.state.runs = false ∨ s.camEnabled i = false) :
    cameraUpdate i s = s := by
  unfold cameraUpdate
  cases hc : s.camSettings i with
  | none => rfl
  | some c =>
    rw [camEnabled_of_camSettings hc] at h
    exact if_neg (by rcases h with h | h <;> simp [h])

theorem cameraUpdate_of_placed {i : Cam} {s : State} {c : CameraSettings} (hruns : s.ctl.state.runs = true)
    (hc : s.camSettings i = some c) (henabled : c.enabled = true)
    (h : s.strip.clock = .loc ∨ s.strip.clock = .following ∨ s.strip.clock = .coasting) :
    cameraUpdate i s = (passSeams i (coordOf (s.strip.xhat.toNat - c.offset)) s).onTrig i
      (positionTrigger s.time s.strip.clock c (coordOf (s.strip.xhat.toNat - c.offset))) := by
  rw [cameraUpdate, hc]
  refine (if_pos (by rw [hruns, henabled]; rfl)).trans ?_
  rcases h with h | h | h <;> rw [h]

theorem cameraUpdate_of_unplaced {i : Cam} {s : State} {c : CameraSettings} (hruns : s.ctl.state.runs = true)
    (hc : s.camSettings i = some c) (henabled : c.enabled = true) (h : s.strip.clock = .held ∨ s.strip.clock = .none) :
    cameraUpdate i s = s.onTrig i (fallbackTrigger s.time s.strip.clock c) := by
  rw [cameraUpdate, hc]
  refine (if_pos (by rw [hruns, henabled]; rfl)).trans ?_
  rcases h with h | h <;> rw [h]

end Sys2Proof.LineTriggering
end

section
/-! The cameras at a coordinate update (O46). -/
namespace Sys2Proof.LineTriggering
open Sys2Proof.Machine Sys2Proof.Safety Sys2Proof.FibreRing Sys2Proof.StationRoll Sys2Proof.StripPosition
open Sys2Proof.SeamsAndCoils

/-! ### Whether a position trigger is due (R88, R92) -/

/-- No trigger is fired by a FREE camera, with no new index, or beyond the top of coil 0 before the first seam (R88, R92). -/
theorem positionTrigger_of_quiet {now : Time} {clock : ClockState} {c : CameraSettings} {x : Coord} {t : Trigger}
    (h : c.free = true ∨ (((located x t).current.toNat / c.pitch : Nat) : Int) ≤ t.nLast
      ∨ beyondFirstCoil clock x (located x t) = true) :
    positionTrigger now clock c x t = located x t := by
  rw [positionTrigger_eq]
  refine if_neg fun ⟨hfree, hbeyond, hnew⟩ => ?_
  rcases h with h | h | h
  · rw [hfree] at h
    cases h
  · omega
  · exact hbeyond h

theorem positionTrigger_of_due {now : Time} {clock : ClockState} {c : CameraSettings} {x : Coord} {t : Trigger}
    (hfree : c.free = false) (hbeyond : ¬ beyondFirstCoil clock x (located x t) = true)
    (hnew : t.nLast < ((located x t).current.toNat / c.pitch : Nat)) : positionTrigger now clock c x t =
      decideTrigger now clock c ((located x t).current.toNat / c.pitch) (located x t) := by
  rw [positionTrigger_eq]
  exact if_pos ⟨hfree, hbeyond, hnew⟩

/-- Settles O46: off, then with a position by the decision of the trigger, then without one by the fallback. -/
theorem camerasTrigger : Obligations.CamerasTrigger := by
  intro i s
  refine ⟨cameraUpdate_of_off, fun c hruns hc henabled => ⟨fun hclock => ?_, fun hclock t due ht hdue => ?_⟩⟩
  · rw [cameraUpdate_of_placed hruns hc henabled hclock, onTrig_eq]
    generalize hx : coordOf (s.strip.xhat.toNat - c.offset) = x
    refine ⟨x, passSeams i x s, located x (passSeams i x s).cams[i].trig, _, hx ▸ coordOf_toNat _, rfl, rfl,
      coilCoordOf_toNat _, rfl, fun beyond hbeyond => ?_⟩
    obtain rfl : beyond = (beyondFirstCoil s.strip.clock x (located x (passSeams i x s).cams[i].trig) = true) :=
      propext (hbeyond.trans (beyondFirstCoil_iff _ _ _).symm)
    refine ⟨fun h => by rw [positionTrigger_of_quiet h], fun passed soon hfree hnear hnew hpassed hsoon => ?_⟩
    obtain rfl : passed = decided _ _ := hpassed
    rw [positionTrigger_of_due hfree hnear hnew, hsoon, ← tooSoon_iff]
    exact ⟨fun h => by rw [decideTrigger_of_soon _ _ h],
      fun h hfull => by rw [decideTrigger_of_full _ _ h hfull],
      fun h hroom => by
        rw [decideTrigger_of_room _ _ h (Nat.not_le.mpr hroom), positionFlags_of_placed hclock]
        rfl⟩
  · subst ht
    rw [hdue, ← fallbackDue_iff, cameraUpdate_of_unplaced hruns hc henabled hclock]
    exact ⟨fun h => onTrig_of_fixed (by rw [fallbackTrigger_eq, if_neg h]),
      fun h hfull => by rw [onTrig_eq, fallbackTrigger_eq, if_pos h, if_pos hfull],
      fun h hroom => by
        rw [onTrig_eq, fallbackTrigger_eq, if_pos h, if_neg (Nat.not_le.mpr hroom), positionFlags_of_unplaced hclock]
        rfl⟩

end Sys2Proof.LineTriggering
end

section
/-! The timers of the trigger generator (O47). -/
namespace Sys2Proof.LineTriggering
open Sys2Proof.Machine Sys2Proof.Safety Sys2Proof.FibreRing Sys2Proof.StationRoll Sys2Proof.StripPosition
open Sys2Proof.SeamsAndCoils

/-! ### The pulse and the last trigger time (R90) -/

theorem exec_triggerPulseEnd (i : Cam) (s : State) : exec (.triggerPulseEnd i) s = .next
    (if timerDue s.time s.cams[i].trig.pulse Config.pulseTime = true then s.onTrig i (fun t => { t with pulse := none })
      else s) := rfl

theorem exec_lastTriggerTimeLapse (i : Cam) (s : State) : exec (.lastTriggerTimeLapse i) s = .next
    (if timerDue s.time s.cams[i].trig.lastTrigger Config.triggerLapse = true then
      s.onTrig i (fun t => { t with lastTrigger := none }) else s) := rfl

/-! ### The timeout of FIFO heads (R97) -/

theorem exec_triggerTimeout_of_not {i : Cam} {s : State} (h : ¬ timeoutDue s i = true) : exec (.triggerTimeout i) s = .next s :=
  congrArg Host.Outcome.next (if_neg h)

theorem exec_triggerTimeout_of_due {i : Cam} {s : State} {c : CameraSettings} (h : timeoutDue s i = true)
    (hc : s.camSettings i = some c) : exec (.triggerTimeout i) s = .next (dropExpired i c s.cams[i].trig.fifo s) := by
  show execTriggerTimeout i s = _
  rw [execTriggerTimeout, if_pos h, hc]

theorem not_timeoutDue_of_off {i : Cam} {s : State}
    (h : s.ctl.state.runs = false ∨ s.camEnabled i = false ∨ s.cams[i].trig.fifo = []) : ¬ timeoutDue s i = true := by
  rw [timeoutDue_iff]
  rintro ⟨c, r, rest, hc, hfifo, hruns, henabled, -⟩
  rcases h with h | h | h
  · exact Bool.noConfusion (h.symm.trans hruns)
  · exact Bool.noConfusion (h.symm.trans ((camEnabled_of_camSettings hc).trans henabled))
  · exact List.cons_ne_nil r rest (hfifo.symm.trans h)

theorem not_timeoutDue_of_early {i : Cam} {s : State} {c : CameraSettings} {r : TriggerRecord} {rest : List TriggerRecord}
    (hc : s.camSettings i = some c) (hfifo : s.cams[i].trig.fifo = r :: rest)
    (h : c.free = true ∨ (s.time - r.fired).toNat < c.timeout) : ¬ timeoutDue s i = true := by
  rw [timeoutDue_iff]
  rintro ⟨c', r', rest', hc', hfifo', -, -, hfree, htime⟩
  obtain rfl : c = c' := Option.some.inj (hc.symm.trans hc')
  obtain ⟨rfl, -⟩ := List.cons.inj (hfifo.symm.trans hfifo')
  rcases h with h | h
  · exact Bool.noConfusion (h.symm.trans hfree)
  · omega

/-- The head leaves the FIFO whether or not a substitute is made. -/
theorem dropHead_fifo (i : Cam) (c : CameraSettings) (r : TriggerRecord) (s : State) :
    (dropHead i c r s).cams[i].trig.fifo = s.cams[i].trig.fifo.drop 1 := by
  unfold dropHead
  dsimp only
  split
  · rw [substituteLine, makeRecord_trig, onTrig_fifo, if_pos rfl]
  · rw [onTrig_fifo, if_pos rfl]

theorem dropHead_ctl (i : Cam) (c : CameraSettings) (r : TriggerRecord) (s : State) :
    ControlStep s.ctl (dropHead i c r s).ctl := by
  unfold dropHead
  dsimp only
  split
  · exact makeRecord_ctl _ _ _ _ _ (s.onTrig i _)
  · exact ControlStep.refl _

/-- The drop goes on with the next record when its time is reached too, as a timeout of its own would. -/
theorem exec_triggerTimeout_of_chain {i : Cam} {s : State} {c : CameraSettings} {r q : TriggerRecord} {rest : List TriggerRecord}
    (hc : s.camSettings i = some c) (hfifo : s.cams[i].trig.fifo = r :: q :: rest) (hdue : timeoutDue s i = true)
    (hnext : c.timeout ≤ (s.time - q.fired).toNat) :
    exec (.triggerTimeout i) s = exec (.triggerTimeout i) (dropHead i c r s) := by
  obtain ⟨c', r', rest', hc', hfifo', hruns, henabled, hfree, htime⟩ := (timeoutDue_iff s i).mp hdue
  obtain rfl : c = c' := Option.some.inj (hc.symm.trans hc')
  obtain ⟨rfl, -⟩ := List.cons.inj (hfifo.symm.trans hfifo')
  have hcLeft : (dropHead i c r s).camSettings i = some c := (camSettings_of_store (by simp) i).trans hc
  have hfifoLeft : (dropHead i c r s).cams[i].trig.fifo = q :: rest := by rw [dropHead_fifo, hfifo]; rfl
  have hdueLeft : timeoutDue (dropHead i c r s) i = true :=
    (timeoutDue_iff _ i).mpr ⟨c, q, rest, hcLeft, hfifoLeft, runs_of_controlStep (dropHead_ctl i c r s) hruns, henabled, hfree,
      by simpa using hnext⟩
  rw [exec_triggerTimeout_of_due hdue hc, exec_triggerTimeout_of_due hdueLeft hcLeft, hfifo, hfifoLeft, dropExpired,
    if_pos ((reached_iff _ _ _).mpr htime)]

/-- The drop ends at a record whose time is not reached, or with the FIFO empty. -/
theorem exec_triggerTimeout_of_last {i : Cam} {s : State} {c : CameraSettings} {r : TriggerRecord} {rest : List TriggerRecord}
    (hc : s.camSettings i = some c) (hfifo : s.cams[i].trig.fifo = r :: rest) (hdue : timeoutDue s i = true)
    (hlast : ∀ q, rest.head? = some q → (s.time - q.fired).toNat < c.timeout) :
    exec (.triggerTimeout i) s = .next (dropHead i c r s) := by
  obtain ⟨c', r', rest', hc', hfifo', -, -, -, htime⟩ := (timeoutDue_iff s i).mp hdue
  obtain rfl : c = c' := Option.some.inj (hc.symm.trans hc')
  obtain ⟨rfl, -⟩ := List.cons.inj (hfifo.symm.trans hfifo')
  rw [exec_triggerTimeout_of_due hdue hc, hfifo, dropExpired, if_pos ((reached_iff _ _ _).mpr htime)]
  cases rest with
  | nil => rfl
  | cons q rest =>
    have hearly : ¬ reached (dropHead i c r s).time q.fired c.timeout = true := by
      rw [reached_iff, (dropHead_rest i c r s).2.1]
      exact Nat.not_le.mpr (hlast q rfl)
    rw [dropExpired, if_neg hearly]

/-- The head dropped, field by field. -/
theorem dropHead_eq {i : Cam} {c : CameraSettings} {r : TriggerRecord} {rest : List TriggerRecord} {s : State}
    (hfifo : s.cams[i].trig.fifo = r :: rest) : dropHead i c r s =
      if c.substitute = true then
        substituteLine i c r.tags { s with cams := put s.cams i { s.cams[i] with
          trig := { s.cams[i].trig with fifo := rest, missing := satInc s.cams[i].trig.missing } } }
      else { s with cams := put s.cams i { s.cams[i] with
        trig := { s.cams[i].trig with fifo := rest, missing := satInc s.cams[i].trig.missing } } } := by
  unfold dropHead
  simp only [onTrig_eq, hfifo, List.drop_succ_cons, List.drop_zero]

/-- Settles O47: the substitute and the two lapses by their definitions, the timeout by its head and the record behind it. -/
theorem triggerTimers : Obligations.TriggerTimers := by
  refine ⟨fun _ _ _ _ => rfl, fun i s t ht => ?_⟩
  subst ht
  refine ⟨?_, ?_, fun h => exec_triggerTimeout_of_not (not_timeoutDue_of_off h), fun c r rest u v hc hfifo =>
    ⟨fun h => exec_triggerTimeout_of_not (not_timeoutDue_of_early hc hfifo h), fun hruns henabled hfree htime hu hv => ?_⟩⟩
  · simp only [exec_triggerPulseEnd, timerDue_iff]
    rfl
  · simp only [exec_lastTriggerTimeLapse, timerDue_iff]
    rfl
  · have hdue : timeoutDue s i = true :=
      (timeoutDue_iff s i).mpr ⟨c, r, rest, hc, hfifo, hruns, henabled, hfree, htime⟩
    subst hu
    rw [← dropHead_eq hfifo] at hv
    subst hv
    refine ⟨exec_triggerTimeout_of_last hc hfifo hdue, fun q hq hnext => ?_⟩
    obtain ⟨later, rfl⟩ := List.head?_eq_some_iff.mp hq
    exact exec_triggerTimeout_of_chain hc hfifo hdue hnext

end Sys2Proof.LineTriggering
end

section
/-! The completed lines (O49). -/
namespace Sys2Proof.LineTriggering
open Sys2Proof.Machine Sys2Proof.Safety Sys2Proof.FibreRing Sys2Proof.StationRoll Sys2Proof.StripPosition
open Sys2Proof.SeamsAndCoils

/-! ### The fill pattern, the output count and the length cap (R101, R102, R109, R110) -/

theorem fillValue_by_pattern (c : CameraSettings) (n : Nat) :
    (c.fill = .black → fillValue c n = c.blackValue)
    ∧ (c.fill = .flat → fillValue c n = if c.deep = true then 2048 else 128)
    ∧ (c.fill = .ramp → fillValue c n = if c.deep = true then n % 4096 else n % 256) := by
  unfold fillValue
  exact ⟨fun h => by rw [h], fun h => by rw [h], fun h => by rw [h]⟩

theorem conditionCap_of_locked {p : CameraPort} (h : p.state = .locked) : conditionCap p = p.locked := by
  rw [conditionCap, h]

theorem conditionCap_of_not_locked {p : CameraPort} (h : p.state ≠ .locked) : conditionCap p = none := by
  unfold conditionCap
  cases hp : p.state with
  | locked => exact absurd hp h
  | off | dark | sizing | mismatch => rfl

/-! ### The record of a line, by the state of its port (R108 to R111) -/

theorem receives_eq_false_iff (p : PortState) : p.receives = false ↔ p = .off ∨ p = .dark := by
  cases p <;> simp [PortState.receives]

theorem recordLine_of_locked {i : Cam} {c : CameraSettings} {len : Nat} {s : State} (tags : Tags) (l : LineRx)
    (h : s.cams[i].port.state = .locked) (hlen : s.cams[i].port.locked = some len) :
    recordLine i c tags l s = conditionedLine i c len tags l s := by
  rw [recordLine, h, hlen]

/-- The flags of a conditioned line: SHORT, LONG and PEAK (R109, R113). -/
theorem conditionedLine_eq (i : Cam) (c : CameraSettings) (len : Nat) (tags : Tags) (l : LineRx) (s : State) :
    conditionedLine i c len tags l s = makeRecord i
      { tags with flags := tags.flags ||| ((if l.count < len then 0x0002 else 0) ||| (if len < l.count then 0x0004 else 0)
          ||| (if c.peak < l.clips then 0x0080 else 0)) }
      c.deep (l.pixels ++ fillRun c l.pixels.length (outputCount c len - l.pixels.length)) l.clips s := by
  simp only [conditionedLine, lockedFlags, flagIf, decide_eq_true_iff]
  rfl

/-- A LOCKED port has a locked length; without one the model makes no record. -/
theorem recordLine_of_lengthless {i : Cam} {c : CameraSettings} {s : State} (tags : Tags) (l : LineRx)
    (h : s.cams[i].port.state = .locked) (hlen : s.cams[i].port.locked = none) : recordLine i c tags l s = s := by
  rw [recordLine, h, hlen]

theorem recordLine_of_unlocked {i : Cam} {c : CameraSettings} {s : State} (tags : Tags) (l : LineRx)
    (hreceives : s.cams[i].port.state.receives = true) (h : s.cams[i].port.state ≠ .locked) :
    recordLine i c tags l s = substituteLine i c tags s := by
  unfold recordLine
  rcases (receives_iff _).mp hreceives with hstate | hstate | hstate
  · rw [hstate]
  · exact absurd hstate h
  · rw [hstate]

/-! ### A falling edge of line-valid (R102) -/

theorem exec_lineCompletion_of_low {i : Cam} {s : State} (pixels : List (BitVec 12)) (h : s.cams[i].port.lineValid = false) :
    exec (.lineCompletion i pixels) s = .next s :=
  congrArg Host.Outcome.next (if_neg (by rw [h]; exact Bool.false_ne_true))

theorem exec_lineCompletion_of_deaf {i : Cam} {s : State} (pixels : List (BitVec 12)) (h : s.cams[i].port.lineValid = true)
    (hdeaf : ¬ (s.ctl.state.runs && s.cams[i].port.state.receives) = true) :
    exec (.lineCompletion i pixels) s = .next (s.onPort i (fun p => { p with lineValid := false })) := by
  show execLineCompletion i pixels s = _
  unfold execLineCompletion
  simp only [if_pos h, if_neg hdeaf]

theorem exec_lineCompletion_of_idle {i : Cam} {s : State} (pixels : List (BitVec 12)) (h : s.cams[i].port.lineValid = true)
    (hacts : (s.ctl.state.runs && s.cams[i].port.state.receives) = true) (hline : s.cams[i].port.line = none) :
    exec (.lineCompletion i pixels) s
      = .next (s.onPort i (fun p => { p with lineValid := false, darkWatch := some s.time })) := by
  show execLineCompletion i pixels s = _
  unfold execLineCompletion
  simp only [if_pos h, if_pos hacts, hline, onPort_onPort]

/-- The state in which a line of `n` pixels takes its tags: its port waits for the next line. -/
def lineEnded (i : Cam) (n : Nat) (s : State) : State :=
  s.onPort i (fun p => { p with lineValid := false, darkWatch := some s.time, line := none, lastLength := n })

theorem exec_lineCompletion_of_line {i : Cam} {s : State} {c : CameraSettings} {l : LineRx} (pixels : List (BitVec 12))
    (h : s.cams[i].port.lineValid = true) (hacts : (s.ctl.state.runs && s.cams[i].port.state.receives) = true)
    (hline : s.cams[i].port.line = some l) (hc : s.camSettings i = some c) {m : LineRx}
    (hm : m = pixels.foldl (deliverPixel c (conditionCap s.cams[i].port)) l) : exec (.lineCompletion i pixels) s
      = .next ((tagLine i c m (lineEnded i m.count s)).onPort i (bookkeep c m.count)) := by
  show execLineCompletion i pixels s = _
  unfold execLineCompletion
  simp only [if_pos h, if_pos hacts, hline, hc, completeLine, onPort_onPort, ← hm]
  rfl

/-! ### The tags of a completed line (R94, R96) -/

theorem tagLine_of_free {i : Cam} {c : CameraSettings} (l : LineRx) (s : State) (h : c.free = true) : tagLine i c l s =
    recordLine i c (freeTag s i) l (s.onTrig i (fun t => { t with sourceChange := false })) := if_pos h

theorem tagLine_of_unsolicited {i : Cam} {c : CameraSettings} {s : State} (l : LineRx) (h : c.free = false)
    (hfifo : s.cams[i].trig.fifo = []) :
    tagLine i c l s = s.onTrig i (fun t => { t with unsolicited := satInc t.unsolicited }) := by
  rw [tagLine, if_neg (by simp [h]), hfifo]

theorem tagLine_of_paired {i : Cam} {c : CameraSettings} {s : State} {r : TriggerRecord} {rest : List TriggerRecord} (l : LineRx)
    (h : c.free = false) (hfifo : s.cams[i].trig.fifo = r :: rest) :
    tagLine i c l s = recordLine i c r.tags l (s.onTrig i (fun t => { t with fifo := rest })) := by
  rw [tagLine, if_neg (by simp [h]), hfifo]

theorem lineEnded_trig (i : Cam) (n : Nat) (s : State) : (lineEnded i n s).cams[i].trig = s.cams[i].trig := onPort_trig _ _ _

/-- A port that has lost its line keeps its state and its locked length until the bookkeeping, whatever its trigger takes up. -/
theorem lineEnded_onTrig_port (i : Cam) (n : Nat) (s : State) (f : Trigger → Trigger) :
    ((lineEnded i n s).onTrig i f).cams[i].port = { s.cams[i].port with
      lineValid := false, darkWatch := some s.time, line := none, lastLength := n } := by
  rw [onTrig_port, lineEnded, onPort_eq, put_self]

theorem freeTag_lineEnded (i : Cam) (n : Nat) (s : State) : freeTag (lineEnded i n s) i =
    { coil := s.cams[i].trig.coil, nominal := s.cams[i].trig.current,
      flags := 0x0040 ||| ((if s.strip.clock = .coasting then 0x0008 else 0)
        ||| (if s.strip.clock = .held ∨ s.strip.clock = .none then 0x0010 else 0)
        ||| (if s.cams[i].trig.sourceChange = true then 0x0020 else 0)) } := by
  rw [freeTag, lineEnded_trig, positionFlags_eq]
  rfl

/-- Settles O49: the derived lengths, then the falling edge by the port, then the completed line by its tags. -/
theorem linesComplete : Obligations.LinesComplete := by
  refine ⟨fun c n => ?_, fun p => ⟨conditionCap_of_locked, conditionCap_of_not_locked⟩, fun i pixels s u p hp => ?_⟩
  · obtain ⟨hblack, hflat, hramp⟩ := fillValue_by_pattern c n
    exact ⟨hblack, hflat, hramp, fun _ => rfl⟩
  subst hp
  refine ⟨exec_lineCompletion_of_low pixels, fun hvalid => ⟨fun hdeaf => ?_, fun hruns hoff hdark => ?_⟩⟩
  · refine exec_lineCompletion_of_deaf pixels hvalid ?_
    rw [Bool.not_eq_true, Bool.and_eq_false_iff, receives_eq_false_iff]
    exact hdeaf
  have hreceives : s.cams[i].port.state.receives = true := by
    rw [← Bool.not_eq_false, receives_eq_false_iff]
    exact not_or.mpr ⟨hoff, hdark⟩
  have hacts : (s.ctl.state.runs && s.cams[i].port.state.receives) = true := by rw [hruns, hreceives]; rfl
  refine ⟨exec_lineCompletion_of_idle pixels hvalid hacts, fun c l m t record hc hline hm ht hu hrecord => ?_⟩
  subst ht
  obtain rfl : u = lineEnded i m.count s := hu
  have hmade : ∀ tags f, recordLine i c tags m ((lineEnded i m.count s).onTrig i f)
      = record tags ((lineEnded i m.count s).onTrig i f) := by
    intro tags f
    have hport := lineEnded_onTrig_port i m.count s f
    rw [hrecord]
    split
    next hlocked =>
      cases hlen : s.cams[i].port.locked with
      | none => exact recordLine_of_lengthless _ _ (by rw [hport, hlocked]) (by rw [hport, hlen])
      | some len =>
        rw [recordLine_of_locked _ _ (by rw [hport, hlocked]) (by rw [hport, hlen]), conditionedLine_eq]
        rfl
    next hlocked =>
      exact recordLine_of_unlocked _ _ (by rw [hport, hreceives]) (by rwa [hport])
  rw [exec_lineCompletion_of_line pixels hvalid hacts hline hc hm]
  refine ⟨fun hfree hfifo => ?_, fun r rest hfree hfifo => ?_, fun hfree => ?_⟩
  · rw [tagLine_of_unsolicited _ hfree (by rw [lineEnded_trig, hfifo])]
  · rw [tagLine_of_paired _ hfree (by rw [lineEnded_trig, hfifo]), hmade]
  · rw [tagLine_of_free _ _ hfree, freeTag_lineEnded, hmade]

end Sys2Proof.LineTriggering
end

section
/-! Camera ports: line-valid and the dark watch (O48), and the bookkeeping of lengths (O50). -/
namespace Sys2Proof.CameraPorts
open Sys2Proof.Machine Sys2Proof.FibreRing Sys2Proof.LineTriggering

/-! ### A rising edge of line-valid (R102, R104) -/

theorem exec_lineValidRise_of_high {i : Cam} {s : State} (h : s.cams[i].port.lineValid = true) :
    exec (.lineValidRise i) s = .next s :=
  congrArg Host.Outcome.next (if_pos h)

/-- What a rising edge makes of a port: in a state that runs the ports, a port that acts begins a line. -/
def raised (s : State) (p : CameraPort) : CameraPort :=
  if s.ctl.state.runs = true then riseAt s.time { p with lineValid := true } else { p with lineValid := true }

theorem exec_lineValidRise_of_low {i : Cam} {s : State} (h : s.cams[i].port.lineValid = false) :
    exec (.lineValidRise i) s = .next { s with cams := put s.cams i { s.cams[i] with port := raised s s.cams[i].port } } :=
  congrArg Host.Outcome.next (if_neg (by rw [h]; exact Bool.false_ne_true))

theorem raised_of_deaf {s : State} {p : CameraPort} (h : s.ctl.state.runs = false ∨ p.state = .off) :
    raised s p = { p with lineValid := true } := by
  unfold raised
  rcases h with hruns | hoff
  · rw [hruns, if_neg Bool.false_ne_true]
  · simp only [riseAt, hoff, ite_self]

theorem raised_of_dark {s : State} {p : CameraPort} (hruns : s.ctl.state.runs = true) (h : p.state = .dark) : raised s p =
    { p with lineValid := true, state := .sizing, run := none, darkWatch := some s.time, line := some .begin } := by
  rw [raised, if_pos hruns, riseAt, h]

theorem raised_of_receives {s : State} {p : CameraPort} (hruns : s.ctl.state.runs = true) (h : p.state.receives = true) :
    raised s p = { p with lineValid := true, darkWatch := some s.time, line := some .begin } := by
  rw [raised, if_pos hruns, riseAt]
  rcases (receives_iff _).mp h with hstate | hstate | hstate <;> rw [hstate]

theorem receives_eq_true_iff (p : PortState) : p.receives = true ↔ p ≠ .off ∧ p ≠ .dark := by
  rw [← Bool.not_eq_false, receives_eq_false_iff, not_or]

/-! ### The dark expiry (R104) -/

theorem exec_darkExpiry (i : Cam) (s : State) : exec (.darkExpiry i) s = .next
    (if darkDue s i = true then
      s.onPort i (fun p => { p with state := .dark, line := none, run := none, deviation := 0, darkWatch := none })
    else s) := rfl

/-- Settles O48: a rising edge by the level before it and the state of the port, and the dark expiry by its test. -/
theorem lineValidAndDarkWatch : Obligations.LineValidAndDarkWatch := by
  rintro i s p rfl
  refine ⟨exec_lineValidRise_of_high, fun hlow => ⟨_, exec_lineValidRise_of_low hlow, raised_of_deaf, raised_of_dark,
    fun hruns hdark hoff => raised_of_receives hruns ((receives_eq_true_iff _).mpr ⟨hoff, hdark⟩)⟩, ?_⟩
  simp only [exec_darkExpiry, darkDue_iff, receives_eq_true_iff, and_assoc]
  rfl

/-! ### Completed lengths in SIZING (R105) -/

theorem lockable_iff (c : CameraSettings) (len : Nat) : lockable c len = true ↔
    (c.lengthCheck = true ∧ len = c.nominal)
      ∨ (c.lengthCheck = false ∧ c.windowStart < len ∧ len ≤ 16384) := by
  cases hcheck : c.lengthCheck with
  | false =>
    rw [lockable, if_neg (by rw [hcheck]; exact Bool.false_ne_true), decide_eq_true_iff]
    simp [Config.maxLockLength]
  | true =>
    rw [lockable, if_pos hcheck, beq_iff_eq]
    simp

theorem not_lockable_of_unfit {c : CameraSettings} {len : Nat}
    (h : (c.lengthCheck = true ∧ len ≠ c.nominal) ∨ (c.lengthCheck = false ∧ (len ≤ c.windowStart ∨ 16384 < len))) :
    ¬ lockable c len = true := by
  rw [lockable_iff]
  rcases h with ⟨hcheck, hlen⟩ | ⟨hcheck, hlen⟩
  · simp [hcheck, hlen]
  · simp only [hcheck, Bool.false_eq_true, false_and, true_and, false_or]
    omega

/-- The run count `n` with this line: one more in a run of its length, else the first of a new run. -/
theorem applySizing_of_count {c : CameraSettings} {len n : Nat} {p : CameraPort}
    (hsame : ∀ r, p.run = some r → r.length = len → n = r.count + 1)
    (hother : (∀ r, p.run = some r → r.length ≠ len) → n = 1) : applySizing c len p =
      if n < 4 then { p with run := some { length := len, count := n } }
      else if lockable c len = true then { p with state := .locked, locked := some len, deviation := 0, run := none }
      else { p with state := .mismatch, mismatched := some len, run := none } := by
  unfold applySizing
  cases hrun : p.run with
  | none =>
    obtain rfl : n = 1 := hother (by simp [hrun])
    rfl
  | some r =>
    by_cases hlen : r.length = len
    · obtain rfl := hsame r hrun hlen
      simp only [if_pos hlen]
    · obtain rfl : n = 1 := hother fun q hq => Option.some.inj (hrun.symm.trans hq) ▸ hlen
      simp only [if_neg hlen]

/-! ### Completed lengths in the other states (R106, R107) -/

theorem bookkeep_of_deaf {c : CameraSettings} {len : Nat} {p : CameraPort} (h : p.state = .off ∨ p.state = .dark) :
    bookkeep c len p = p := by
  unfold bookkeep
  rcases h with h | h <;> rw [h]

theorem bookkeep_of_sizing {c : CameraSettings} {len : Nat} {p : CameraPort} (h : p.state = .sizing) :
    bookkeep c len p = applySizing c len p := by
  rw [bookkeep, h]

theorem bookkeep_of_mismatch {c : CameraSettings} {len : Nat} {p : CameraPort} (h : p.state = .mismatch) :
    bookkeep c len p = if p.mismatched = some len then p else backToSizing len p := by
  rw [bookkeep, h]

theorem bookkeep_of_locked {c : CameraSettings} {len : Nat} {p : CameraPort} (h : p.state = .locked) : bookkeep c len p =
    if p.locked = some len then { p with deviation := 0 }
    else if p.deviation + 1 < 8 then { p with deviation := p.deviation + 1 }
    else { backToSizing len p with deviation := 0 } := by
  rw [bookkeep, h]

/-- Settles O50, by the state of the port at the completion. -/
theorem portsLockAndLose : Obligations.PortsLockAndLose := by
  refine fun c len p => ⟨bookkeep_of_deaf, fun n hsizing hsame hother => ?_, bookkeep_of_mismatch, fun hlocked => ?_⟩
  · rw [bookkeep_of_sizing hsizing, applySizing_of_count hsame hother]
    refine ⟨fun hfew => if_pos hfew, fun hfour => ⟨fun hfit => ?_, fun hunfit => ?_⟩⟩
    · rw [if_neg (Nat.not_lt.mpr hfour), if_pos ((lockable_iff c len).mpr hfit)]
    · rw [if_neg (Nat.not_lt.mpr hfour), if_neg (not_lockable_of_unfit hunfit)]
  · rw [bookkeep_of_locked hlocked]
    refine ⟨fun hlen => if_pos hlen, fun hlen hfew => ?_, fun hlen hmany => ?_⟩
    · rw [if_neg hlen, if_pos (by omega)]
    · rw [if_neg hlen, if_neg (by omega)]
      rfl

end Sys2Proof.CameraPorts
end

section
/-! The pixels of a line in reception (O51). -/
namespace Sys2Proof.CameraPorts
open Sys2Proof.Machine

/-! ### One pixel (R102, R109, R112, R113) -/

theorem deliverPixel_of_full {c : CameraSettings} {cap : Option Nat} {l : LineRx} (x : BitVec 12) (h : l.count = 65535) :
    deliverPixel c cap l x = l := if_pos h

theorem deliverPixel_of_uncapped {c : CameraSettings} {l : LineRx} (x : BitVec 12) (h : l.count ≠ 65535) :
    deliverPixel c none l x = { l with count := l.count + 1 } := if_neg h

theorem deliverPixel_of_inside {c : CameraSettings} {len : Nat} {l : LineRx} (x : BitVec 12) (h : l.count ≠ 65535)
    (hin : c.windowStart ≤ l.count ∧ l.count < windowEnd c len) : deliverPixel c (some len) l x =
      { count := l.count + 1, pixels := l.pixels ++ [conditioned c (x.toNat % 2 ^ c.inputDepth)],
        clips := if clipped c (x.toNat % 2 ^ c.inputDepth) = true then min (l.clips + 1) 65535 else l.clips } := by
  rw [deliverPixel, if_neg h]
  exact if_pos hin

theorem deliverPixel_of_outside {c : CameraSettings} {len : Nat} {l : LineRx} (x : BitVec 12) (h : l.count ≠ 65535)
    (hout : ¬ (c.windowStart ≤ l.count ∧ l.count < windowEnd c len)) :
    deliverPixel c (some len) l x = { l with count := l.count + 1 } := by
  rw [deliverPixel, if_neg h]
  exact if_neg hout

/-! ### The pixels of the window (R109) -/

/-- The raw values of the pixels in the window of a line locked at `len`, in the input depth. -/
def windowed (c : CameraSettings) (len : Nat) (pixels : List (BitVec 12)) : List Nat :=
  ((pixels.take (windowEnd c len)).drop c.windowStart).map (fun x => x.toNat % 2 ^ c.inputDepth)

theorem windowed_concat_inside {c : CameraSettings} {len : Nat} {pixels : List (BitVec 12)} (x : BitVec 12)
    (h : c.windowStart ≤ pixels.length ∧ pixels.length < windowEnd c len) :
    windowed c len (pixels ++ [x]) = windowed c len pixels ++ [x.toNat % 2 ^ c.inputDepth] := by
  obtain ⟨hstart, hstop⟩ := h
  have hall : (pixels ++ [x]).take (windowEnd c len) = pixels ++ [x] :=
    List.take_of_length_le (by rw [List.length_append, List.length_singleton]; omega)
  rw [windowed, windowed, hall, List.take_of_length_le hstop.le, List.drop_append_of_le_length hstart, List.map_append]
  rfl

theorem windowed_concat_outside {c : CameraSettings} {len : Nat} {pixels : List (BitVec 12)} (x : BitVec 12)
    (h : ¬ (c.windowStart ≤ pixels.length ∧ pixels.length < windowEnd c len)) :
    windowed c len (pixels ++ [x]) = windowed c len pixels := by
  unfold windowed
  by_cases hstop : windowEnd c len ≤ pixels.length
  · rw [List.take_append_of_le_length hstop]
  · have hstart : pixels.length < c.windowStart := by omega
    rw [List.drop_eq_nil_of_le (by simp; omega), List.drop_eq_nil_of_le (by simp; omega)]

/-! ### All the pixels of a line -/

/-- A port that is not LOCKED counts the pixels and keeps none (R102). -/
theorem deliverPixels_uncapped (c : CameraSettings) (pixels : List (BitVec 12)) :
    pixels.foldl (deliverPixel c none) .begin = { count := min 65535 pixels.length, pixels := [], clips := 0 } := by
  induction pixels using List.reverseRecOn with
  | nil => rfl
  | append_singleton pixels x ih =>
    rw [List.foldl_concat, ih, List.length_append, List.length_singleton]
    by_cases hfull : min 65535 pixels.length = 65535
    · rw [deliverPixel_of_full x hfull]
      congr 1
      omega
    · rw [deliverPixel_of_uncapped x hfull]
      simp only [LineRx.mk.injEq, and_true]
      omega

/-- A LOCKED port conditions the pixels of its window, which ends before the count does (R102, R109, R113). -/
theorem deliverPixels_capped {c : CameraSettings} {len : Nat} (hstop : windowEnd c len ≤ 65535) (pixels : List (BitVec 12)) :
    pixels.foldl (deliverPixel c (some len)) .begin =
      { count := min 65535 pixels.length, pixels := (windowed c len pixels).map (conditioned c),
        clips := min 65535 ((windowed c len pixels).filter (clipped c)).length } := by
  induction pixels using List.reverseRecOn with
  | nil => simp [windowed, LineRx.begin]
  | append_singleton pixels x ih =>
    rw [List.foldl_concat, ih, List.length_append, List.length_singleton]
    by_cases hfull : min 65535 pixels.length = 65535
    · rw [deliverPixel_of_full x hfull, windowed_concat_outside x (by omega)]
      congr 1
      omega
    have hcount : min 65535 pixels.length = pixels.length := by omega
    have hnext : min 65535 (pixels.length + 1) = pixels.length + 1 := by omega
    rw [hcount] at hfull ⊢
    rw [hnext]
    by_cases hin : c.windowStart ≤ pixels.length ∧ pixels.length < windowEnd c len
    · rw [deliverPixel_of_inside x hfull hin, windowed_concat_inside x hin, List.map_append, List.filter_append,
        List.length_append]
      congr 1
      cases hclip : clipped c (x.toNat % 2 ^ c.inputDepth) with
      | false => simp [hclip]
      | true =>
        simp only [hclip, if_true, List.filter_cons_of_pos, List.filter_nil, List.length_singleton]
        omega
    · rw [deliverPixel_of_outside x hfull hin, windowed_concat_outside x hin]

/-! ### The conditioned value of one pixel (R112, R113) -/

theorem unclamped_eq {c : CameraSettings} {p : Nat} {scaled : Int}
    (h : scaled = ((((p * 2 ^ (12 - c.inputDepth) : Nat) : Int) - c.black) * c.gain + 128) / 256 + c.lift) :
    unclamped c p = if c.deep = true then scaled else (scaled + 8) / 16 := by
  rw [h]
  rfl

theorem conditioned_cast (c : CameraSettings) (p : Nat) :
    (conditioned c p : Int) = max (c.low : Int) (min (c.high : Int) (unclamped c p)) := by
  unfold conditioned clampInt
  omega

/-- A pixel counts as clipped when the clamp changes its value. -/
theorem clipped_iff {c : CameraSettings} (h : c.low ≤ c.high) (p : Nat) :
    clipped c p = true ↔ max (c.low : Int) (min (c.high : Int) (unclamped c p)) ≠ unclamped c p := by
  rw [clipped, decide_eq_true_iff]
  omega

/-- Settles O51: the pixels counted, then those of the window conditioned, then the clamp of one pixel. -/
theorem pixelsAreConditioned : Obligations.PixelsAreConditioned := by
  refine ⟨fun c pixels m hm => hm.trans (deliverPixels_uncapped c pixels), ?_, ?_⟩
  · rintro c len start stop pixels kept m rfl rfl hlen rfl rfl
    have hstop : windowEnd c len ≤ 65535 := (Nat.min_le_right _ len).trans (by omega)
    have hline := deliverPixels_capped hstop pixels
    exact ⟨congrArg LineRx.count hline, congrArg LineRx.pixels hline, congrArg LineRx.clips hline⟩
  · rintro c p scaled full v hclamp hscaled rfl rfl
    rw [← unclamped_eq hscaled]
    exact ⟨conditioned_cast c p, clipped_iff hclamp p⟩

end Sys2Proof.CameraPorts
end

section
/-! The record of a line and its admission to the line queue (O52). -/
namespace Sys2Proof.CameraPorts
open Sys2Proof.Machine Sys2Proof.FibreRing Sys2Proof.LineTriggering

/-! ### The payload of a line (R118, Table 12.2) -/

theorem payloadOf_cons (deep : Bool) (v : Nat) (rest : List Nat) : payloadOf deep (v :: rest) =
    (if deep = true then [BitVec.ofNat 8 (v / 256), BitVec.ofNat 8 v] else [BitVec.ofNat 8 v]) ++ payloadOf deep rest := by
  cases deep <;> simp [payloadOf, toBytes]

/-- Bytes taken run by run are the bytes taken at once. -/
theorem flatMap_runs {α : Type} (l : List α) (b k : Nat) :
    (List.range k).flatMap (fun j => (l.drop (j * b)).take b) = l.take (k * b) := by
  induction k with
  | zero => simp
  | succ k ih =>
    rw [List.range_succ, List.flatMap_append, ih, List.flatMap_singleton, Nat.succ_mul, List.take_add]

/-! ### The segments of a line (R118, R127) -/

theorem length_cutLine (h : OwnHeader) (i : Cam) (thinned : BitVec 8) (r : LineRecord) :
    (cutLine h i thinned r).length = segmentCount (payloadBytes r) := by
  simp [cutLine]

/-- The segments of a line hold its payload, in order. -/
theorem flatMap_payload_cutLine (h : OwnHeader) (i : Cam) (thinned : BitVec 8) (r : LineRecord) :
    (cutLine h i thinned r).flatMap LineParcel.payload = payloadOf r.deep r.pixels := by
  have hlen : (payloadOf r.deep r.pixels).length ≤ segmentCount (payloadBytes r) * Config.blockBytes := by
    rw [length_payloadOf, payloadBytes, segmentCount, Config.blockBytes]
    omega
  calc (cutLine h i thinned r).flatMap LineParcel.payload
      = (List.range (segmentCount (payloadBytes r))).flatMap
          (fun j => ((payloadOf r.deep r.pixels).drop (j * Config.blockBytes)).take Config.blockBytes) := List.flatMap_map ..
    _ = (payloadOf r.deep r.pixels).take (segmentCount (payloadBytes r) * Config.blockBytes) := flatMap_runs _ _ _
    _ = payloadOf r.deep r.pixels := List.take_of_length_le hlen

/-- Segment `j` of a line carries its share of the payload, and the fields of the line in its other places. -/
theorem segment_of_cutLine {h : OwnHeader} {i : Cam} {thinned : BitVec 8} {r : LineRecord} {j : Nat} {p : LineParcel}
    (hp : (cutLine h i thinned r)[j]? = some p) :
    p = segmentParcel h i thinned r (segmentCount (payloadBytes r)) j p.payload
      ∧ p.payload.length = min Config.blockBytes (payloadBytes r - j * Config.blockBytes) := by
  obtain ⟨k, hk, rfl⟩ := Option.map_eq_some_iff.mp (List.getElem?_map ▸ hp)
  obtain ⟨-, rfl⟩ := List.getElem?_eq_some_iff.mp hk
  rw [List.getElem_range]
  refine ⟨rfl, ?_⟩
  have hlen : (payloadOf r.deep r.pixels).length = payloadBytes r := length_payloadOf _ _
  simp only [segmentParcel, List.length_take, List.length_drop, hlen]

/-- Every segment but the last is full, and the last is not empty. -/
theorem length_payload_of_cutLine {h : OwnHeader} {i : Cam} {thinned : BitVec 8} {r : LineRecord} {j : Nat} {p : LineParcel}
    (hp : (cutLine h i thinned r)[j]? = some p) :
    (j + 1 < segmentCount (payloadBytes r) → p.payload.length = 2048)
      ∧ (j + 1 = segmentCount (payloadBytes r) → 1 ≤ p.payload.length ∧ p.payload.length ≤ 2048) := by
  rw [(segment_of_cutLine hp).2, segmentCount, Config.blockBytes]
  omega

/-! ### One camera's admission state -/

theorem onAdm_onAdm (s : State) (i : Cam) (f g : Admission → Admission) :
    (s.onAdm i f).onAdm i g = s.onAdm i (fun a => g (f a)) := by
  simp [State.onAdm, State.onCam, change, put]

theorem onAdm_adm (s : State) (i : Cam) (f : Admission → Admission) : (s.onAdm i f).cams[i].adm = f s.cams[i].adm := by
  rw [State.onAdm_self, change, put_self]

theorem onPort_adm (s : State) (i : Cam) (f : CameraPort → CameraPort) : (s.onPort i f).cams[i].adm = s.cams[i].adm := by
  rw [onPort_eq, put_self]

theorem thinOf_of_held {s : State} {i : Cam} {c : CameraSettings} (h : s.camSettings i = some c) : thinOf s i = c.thin := by
  rw [thinOf, h]

/-! ### The admission of a record (R120 to R122) -/

theorem admits_iff (c : StationState) : c.admits = true ↔ c = .running ∨ c = .ringOpen := by
  cases c <;> simp [StationState.admits]

theorem thinnedOut_iff (occupancy k phase : Nat) :
    thinnedOut occupancy k phase = true ↔ 196608 ≤ occupancy ∧ 1 < k ∧ phase ≠ 0 := decide_eq_true_iff

theorem present_of_shut {i : Cam} {r : LineRecord} {s : State} (h : ¬ s.ctl.state.admits = true) :
    present i r s = s.onAdm i (fun a => { a with refused := satInc a.refused }) :=
  if_pos (by simp [h])

theorem present_of_thinned {i : Cam} {r : LineRecord} {s : State} (h : s.ctl.state.admits = true)
    (hthin : thinnedOut (lineOccupancy s.seg.lines) (thinOf s i) s.cams[i].adm.phase = true) :
    present i r s = s.onAdm i (fun a => { a with
      phase := phaseAfter (lineOccupancy s.seg.lines) (thinOf s i) s.cams[i].adm.phase,
      thinned := satInc a.thinned, thinnedSince := satInc a.thinnedSince }) := by
  rw [present, if_neg (by simp [h]), if_pos hthin, onAdm_onAdm]

theorem present_of_overfull {i : Cam} {r : LineRecord} {s : State} (h : s.ctl.state.admits = true)
    (hthin : ¬ thinnedOut (lineOccupancy s.seg.lines) (thinOf s i) s.cams[i].adm.phase = true)
    (hroom : Config.lineCapacity < lineOccupancy s.seg.lines + parcelBytes r) :
    present i r s = s.onAdm i (fun a => { a with
      phase := phaseAfter (lineOccupancy s.seg.lines) (thinOf s i) s.cams[i].adm.phase, refused := satInc a.refused }) := by
  rw [present, if_neg (by simp [h]), if_neg hthin, if_neg (Nat.not_le.mpr hroom), onAdm_onAdm]

/-- The state in which an admitted line of camera `i` joins the line queue: it is counted, and the count of
thinned lines before it begins again. -/
def admitted (i : Cam) (phase : Nat) (s : State) : State :=
  s.onAdm i (fun a => { a with phase := phase, admitted := satInc a.admitted, thinnedSince := 0 })

theorem present_of_room {i : Cam} {r : LineRecord} {s v : State} (h : s.ctl.state.admits = true)
    (hthin : ¬ thinnedOut (lineOccupancy s.seg.lines) (thinOf s i) s.cams[i].adm.phase = true)
    (hroom : lineOccupancy s.seg.lines + parcelBytes r ≤ Config.lineCapacity)
    (hv : v = admitted i (phaseAfter (lineOccupancy s.seg.lines) (thinOf s i) s.cams[i].adm.phase) s) :
    present i r s = freeWhileIdle
      { v with seg := { v.seg with lines := v.seg.lines ++ cutLine s.ownHeader i s.cams[i].adm.thinnedSince r } } := by
  subst hv
  rw [present, if_neg (by simp [h]), if_neg hthin, if_pos hroom]
  simp only [admitLine, onAdm_onAdm, onAdm_adm]
  rfl

/-- Settles O52: the occupancy, the thin factor and the payload, then the record refused, thinned, too long, or appended. -/
theorem linesAreAdmitted : Obligations.LinesAreAdmitted := by
  refine ⟨fun _ => rfl, fun _ _ _ => thinOf_of_held, fun deep => ⟨rfl, payloadOf_cons deep⟩, ?_⟩
  rintro i tags deep pixels clips s u a bytes occupancy segments k rfl rfl rfl rfl rfl hu
  have hmade : makeRecord i tags deep pixels clips s = present i
      { serial := s.cams[i].port.serial, tags := tags, deep := deep, pixels := pixels, clips := clips } u := by
    rw [hu, makeRecord]
  have hctl : u.ctl = s.ctl := hu ▸ rfl
  have hlines : u.seg.lines = s.seg.lines := hu ▸ rfl
  have hthin : thinOf u i = thinOf s i := hu ▸ rfl
  have hadm : u.cams[i].adm = s.cams[i].adm := hu ▸ onPort_adm _ _ _
  have hheader : u.ownHeader = s.ownHeader := hu ▸ rfl
  rw [← admits_iff, ← hctl, hmade]
  refine ⟨present_of_shut, fun hopen phase thinned hphase hthinned => ?_⟩
  have hafter : phaseAfter (lineOccupancy u.seg.lines) (thinOf u i) u.cams[i].adm.phase = phase := by
    rw [hlines, hthin, hadm, hphase]
    rfl
  have htest : thinnedOut (lineOccupancy u.seg.lines) (thinOf u i) u.cams[i].adm.phase = true ↔ thinned := by
    rw [hlines, hthin, hadm, thinnedOut_iff, hthinned]
  rw [← htest, ← hlines, ← hafter]
  refine ⟨present_of_thinned hopen, fun hkeep hfull => present_of_overfull hopen hkeep hfull, fun hkeep hroom =>
    ⟨_, _, rfl, present_of_room hopen hkeep hroom rfl, length_cutLine _ _ _ _, flatMap_payload_cutLine _ _ _ _,
      fun j p hp => ⟨?_, length_payload_of_cutLine hp⟩⟩⟩
  have hsegment := (segment_of_cutLine hp).1
  rw [hheader, hadm] at hsegment
  rw [hctl]
  exact hsegment

end Sys2Proof.CameraPorts
end

section
/-! The requests that join the control queue or replace a parcel in it (O27). -/
namespace Sys2Proof.ControlQueue
open Sys2Proof.Machine Sys2Proof.Safety

/-! ### Replacement in position (R125) -/

theorem sameKind_iff (b : ControlBody) (q : ControlParcel) : sameKind b q = true ↔ q.body.kind = b.kind := beq_iff_eq

/-- The first parcel of the kind is replaced; those before it and after it stay where they are. -/
theorem replaceKind_of_first {p q : ControlParcel} {before after : List ControlParcel} (hq : q.body.kind = p.body.kind)
    (hbefore : ∀ x ∈ before, x.body.kind ≠ p.body.kind) : replaceKind p (before ++ q :: after) = before ++ p :: after := by
  induction before with
  | nil => exact if_pos ((sameKind_iff _ _).mpr hq)
  | cons x before ih =>
    obtain ⟨hx, hrest⟩ := List.forall_mem_cons.mp hbefore
    rw [List.cons_append, replaceKind, if_neg (mt (sameKind_iff _ _).mp hx), ih hrest, List.cons_append]

theorem placeRequest_of_queued {b : ControlBody} {s : State} {q : ControlParcel} (hmem : q ∈ s.seg.control)
    (hq : q.body.kind = b.kind) : placeRequest b s =
      { s with seg := { s.seg with control := replaceKind { header := s.ownHeader, body := b } s.seg.control } } :=
  if_pos (List.any_eq_true.mpr ⟨q, hmem, (sameKind_iff _ _).mpr hq⟩)

theorem placeRequest_of_absent {b : ControlBody} {s : State} (h : ∀ x ∈ s.seg.control, x.body.kind ≠ b.kind) :
    placeRequest b s = joinControl { header := s.ownHeader, body := b } s := by
  refine if_neg fun hany => ?_
  obtain ⟨x, hx, hkind⟩ := List.any_eq_true.mp hany
  exact h x hx ((sameKind_iff _ _).mp hkind)

/-! ### MARKs (R126) -/

theorem placeMark_of_room {coord : Coord} {coil : Word16} {s : State} (h : queuedOf .mark s < 12) :
    placeMark coord coil s = joinControl { header := s.ownHeader, body := .mark coord coil } s := if_pos h

theorem placeMark_of_full {coord : Coord} {coil : Word16} {s : State} (h : 12 ≤ queuedOf .mark s) :
    placeMark coord coil s = { s with seg := { s.seg with marksDropped := satInc s.seg.marksDropped } } :=
  if_neg (Nat.not_lt.mpr h)

/-! ### The own key (R22, R127) -/

theorem originKey_of_identity {s : State} {id : Word32} (h : s.ctl.identity = some id) :
    s.originKey = BitVec.ofNat 16 id.toNat := by
  rw [State.originKey, h, BitVec.ofNat_toNat]
  rfl

/-- Settles O27: a request with a parcel of its kind queued and one without, a MARK with room and one without, and the own key. -/
theorem controlRequests : Obligations.ControlRequests := by
  refine ⟨fun b p s hp => ⟨fun before q after hqueue hq hbefore => ?_, fun habsent => ?_⟩, fun coord coil s =>
    ⟨placeMark_of_room, placeMark_of_full⟩, fun id s => originKey_of_identity⟩
  · subst hp
    rw [placeRequest_of_queued (q := q) (by simp [hqueue]) hq, hqueue, replaceKind_of_first hq hbefore]
    rfl
  · subst hp
    exact placeRequest_of_absent habsent

end Sys2Proof.ControlQueue
end

section
/-! The line counters of a camera: a record counts once as produced and once as admitted, thinned or refused (R114, R120 to R122,
R128), and nothing else but a reset changes them. -/
namespace Sys2Proof.LineCounters
open Sys2Proof.Machine Sys2Proof.Safety Sys2Proof.FibreRing Sys2Proof.StationRoll Sys2Proof.StripPosition
open Sys2Proof.SeamsAndCoils Sys2Proof.LineTriggering Sys2Proof.CameraPorts

/-! ### The balance of one camera (R128) -/

/-- The lines that an admission state counts, however they fared. -/
def linesCounted (a : Admission) : Nat := a.admitted.toNat + a.thinned.toNat + a.refused.toNat

/-- The lines a camera produced are those its admission state counts, as far as a counter goes. -/
def Balanced (c : Camera) : Prop := c.port.produced.toNat = min (linesCounted c.adm) (2 ^ 32 - 1)

theorem linesBalance_iff (s : State) : LinesBalance s ↔ ∀ i : Cam, Balanced s.cams[i] := Iff.rfl

/-- After the admission state `a`, the state `b` counts one line more: admitted, thinned or refused (R120 to R122). -/
inductive CountsOne (a b : Admission) : Prop where
  | admitted (hadmitted : b.admitted = satInc a.admitted) (hthinned : b.thinned = a.thinned) (hrefused : b.refused = a.refused)
  | thinned (hadmitted : b.admitted = a.admitted) (hthinned : b.thinned = satInc a.thinned) (hrefused : b.refused = a.refused)
  | refused (hadmitted : b.admitted = a.admitted) (hthinned : b.thinned = a.thinned) (hrefused : b.refused = satInc a.refused)

/-- One line more is one more in the sum, until the sum reaches the top of a counter. -/
theorem linesCounted_of_countsOne {a b : Admission} (h : CountsOne a b) :
    min (linesCounted b) (2 ^ 32 - 1) = min (linesCounted a + 1) (2 ^ 32 - 1) := by
  unfold linesCounted
  cases h with
  | admitted ha ht hr | thinned ha ht hr | refused ha ht hr =>
    rw [ha, ht, hr, satInc_toNat]
    omega

/-- A record keeps its camera in balance: it counts once on either side. -/
theorem balanced_of_record {c d : Camera} (h : Balanced c) (hproduced : d.port.produced = satInc c.port.produced)
    (hadm : CountsOne c.adm d.adm) : Balanced d := by
  unfold Balanced at *
  rw [hproduced, satInc_toNat, h, linesCounted_of_countsOne hadm]
  omega

theorem balanced_of_reset (p : PortState) (level : Bool) : Balanced (.reset p level) := rfl

/-! ### States in which no line is counted -/

theorem balance_of_counts {s t : State} (h : LinesBalance s)
    (hproduced : ∀ i : Cam, t.cams[i].port.produced = s.cams[i].port.produced)
    (hadm : ∀ i : Cam, t.cams[i].adm = s.cams[i].adm) : LinesBalance t := by
  intro i
  rw [hproduced, hadm]
  exact h i

theorem balance_of_cams {s t : State} (h : LinesBalance s) (heq : t.cams = s.cams) : LinesBalance t :=
  balance_of_counts h (fun _ => by rw [heq]) (fun _ => by rw [heq])

/-- One camera is replaced by another in balance. -/
theorem balance_of_put {s t : State} {i : Cam} {c : Camera} (h : LinesBalance s) (hc : Balanced c)
    (heq : t.cams = put s.cams i c) : LinesBalance t := by
  rw [linesBalance_iff]
  intro j
  rw [heq, put_get]
  split
  · exact hc
  · exact h j

theorem onTrig_balance {s : State} {i : Cam} {f : Trigger → Trigger} (h : LinesBalance s) : LinesBalance (s.onTrig i f) :=
  balance_of_put (c := { s.cams[i] with trig := f s.cams[i].trig }) h (h i) rfl

theorem onPort_balance {s : State} {i : Cam} {f : CameraPort → CameraPort} (h : LinesBalance s)
    (hf : (f s.cams[i].port).produced = s.cams[i].port.produced) : LinesBalance (s.onPort i f) := by
  have hcam : Balanced { s.cams[i] with port := f s.cams[i].port } := by
    rw [Balanced, hf]
    exact h i
  exact balance_of_put h hcam rfl

/-! ### Records (R114, R120 to R122) -/

/-- The cameras of `t` are those of `s`, with one line more counted at camera `i`. -/
def CountsAt (i : Cam) (s t : State) : Prop :=
  ∃ f, CountsOne s.cams[i].adm (f s.cams[i].adm) ∧ t.cams = (s.onAdm i f).cams

theorem countsAt_onAdm {i : Cam} {s : State} {f : Admission → Admission} (h : CountsOne s.cams[i].adm (f s.cams[i].adm)) :
    CountsAt i s (s.onAdm i f) := ⟨f, h, rfl⟩

/-- A record presented to the segmenter is counted once at its camera, whatever comes of it. -/
theorem present_counts (i : Cam) (r : LineRecord) (s : State) : CountsAt i s (present i r s) := by
  by_cases hopen : s.ctl.state.admits = true
  · by_cases hthin : thinnedOut (lineOccupancy s.seg.lines) (thinOf s i) s.cams[i].adm.phase = true
    · rw [present_of_thinned hopen hthin]
      exact countsAt_onAdm (.thinned rfl rfl rfl)
    · rcases Nat.lt_or_ge Config.lineCapacity (lineOccupancy s.seg.lines + parcelBytes r) with hfull | hroom
      · rw [present_of_overfull hopen hthin hfull]
        exact countsAt_onAdm (.refused rfl rfl rfl)
      · obtain ⟨f, hcounts, hcams⟩ : CountsAt i s
            (admitted i (phaseAfter (lineOccupancy s.seg.lines) (thinOf s i) s.cams[i].adm.phase) s) :=
          countsAt_onAdm (.admitted rfl rfl rfl)
        exact ⟨f, hcounts, by rw [present_of_room hopen hthin hroom rfl, ← hcams]; simp⟩
  · rw [present_of_shut hopen]
    exact countsAt_onAdm (.refused rfl rfl rfl)

/-- An update of one camera's port, then one of its admission state. -/
theorem onAdm_onPort_cams (s : State) (i : Cam) (f : Admission → Admission) (g : CameraPort → CameraPort) :
    ((s.onPort i g).onAdm i f).cams = put s.cams i { s.cams[i] with port := g s.cams[i].port, adm := f s.cams[i].adm } := by
  simp [State.onPort, State.onAdm, State.onCam, change, put]

theorem makeRecord_balance {i : Cam} {tags : Tags} {deep : Bool} {pixels : List Nat} {clips : Nat} {s : State}
    (h : LinesBalance s) : LinesBalance (makeRecord i tags deep pixels clips s) := by
  obtain ⟨f, hcounts, hcams⟩ := present_counts i
    { serial := s.cams[i].port.serial, tags := tags, deep := deep, pixels := pixels, clips := clips }
    (s.onPort i (fun p => { p with serial := p.serial + 1, produced := satInc p.produced }))
  rw [onPort_adm] at hcounts
  rw [onAdm_onPort_cams] at hcams
  exact balance_of_put h (balanced_of_record (h i) rfl hcounts) hcams

theorem recordLine_balance {i : Cam} {c : CameraSettings} {tags : Tags} {l : LineRx} {s : State} (h : LinesBalance s) :
    LinesBalance (recordLine i c tags l s) := by
  unfold recordLine
  split
  case h_4 => exact h
  all_goals exact makeRecord_balance h

theorem tagLine_balance {i : Cam} {c : CameraSettings} {l : LineRx} {s : State} (h : LinesBalance s) :
    LinesBalance (tagLine i c l s) := by
  unfold tagLine
  split
  · exact recordLine_balance (onTrig_balance h)
  · split
    · exact onTrig_balance h
    · exact recordLine_balance (onTrig_balance h)

theorem bookkeep_produced (c : CameraSettings) (len : Nat) (p : CameraPort) : (bookkeep c len p).produced = p.produced := by
  unfold bookkeep applySizing
  simp only
  (repeat' split) <;> rfl

theorem completeLine_balance {i : Cam} {c : CameraSettings} {l : LineRx} {s : State} (h : LinesBalance s) :
    LinesBalance (completeLine i c l s) :=
  onPort_balance (tagLine_balance (onPort_balance h rfl)) (bookkeep_produced _ _ _)

theorem dropHead_balance {i : Cam} {c : CameraSettings} {r : TriggerRecord} {s : State} (h : LinesBalance s) :
    LinesBalance (dropHead i c r s) := by
  unfold dropHead
  simp only
  split
  · exact makeRecord_balance (onTrig_balance h)
  · exact onTrig_balance h

theorem dropExpired_balance {i : Cam} {c : CameraSettings} (l : List TriggerRecord) {s : State} (h : LinesBalance s) :
    LinesBalance (dropExpired i c l s) := by
  induction l generalizing s with
  | nil => exact h
  | cons r l ih =>
    rw [dropExpired]
    split
    · exact ih (dropHead_balance h)
    · exact h

/-! ### The strip position unit (R61, R93) -/

theorem setSource_balance {p : PositionSource} {s : State} (h : LinesBalance s) : LinesBalance (setSource p s) := by
  unfold setSource
  simp only
  split
  · exact h
  · exact balance_of_counts h (fun i => by simp only [raiseSourceChange, each_get]; rfl)
      (fun i => by simp only [raiseSourceChange, each_get]; rfl)

theorem follow_balance {n : Station} {s : State} (h : LinesBalance s) : LinesBalance (follow n s) := setSource_balance h

theorem markFallback_balance {s : State} (h : LinesBalance s) : LinesBalance (markFallback s) := by
  by_cases hruns : s.ctl.state.runs = true
  · exact balance_of_counts h (fun i => by rw [markFallback_get hruns]) (fun i => by rw [markFallback_get hruns])
  · rw [markFallback, if_neg hruns]
    exact h

theorem enterHeld_balance {s : State} (h : LinesBalance s) : LinesBalance (enterHeld s) := markFallback_balance h

theorem recheckBeacon_balance {s : State} (h : LinesBalance s) : LinesBalance (recheckBeacon s) :=
  balance_of_cams h (by simp)

theorem encoderFault_balance {s : State} (h : LinesBalance s) : LinesBalance (encoderFault s) := by
  unfold encoderFault
  simp only
  split
  · apply recheckBeacon_balance
    split
    · exact follow_balance h
    · exact enterHeld_balance h
  · exact h

theorem samplePair_balance {a b : Bool} {s : State} (h : LinesBalance s) : LinesBalance (samplePair a b s) := by
  unfold samplePair
  simp only
  split
  · split
    case h_1 => exact h
    all_goals
      split
      · exact encoderFault_balance h
      · exact h
  · exact h

theorem returnToGood_balance {t : Settings} {s : State} (h : LinesBalance s) : LinesBalance (returnToGood t s) :=
  recheckBeacon_balance (setSource_balance h)

theorem followedStale_balance {n : Station} {s : State} (h : LinesBalance s) : LinesBalance (followedStale n s) := by
  unfold followedStale
  split
  · exact follow_balance h
  · exact h

theorem beaconOffer_balance {p : List Byte} {s : State} (h : LinesBalance s) : LinesBalance (beaconOffer p s) := by
  unfold beaconOffer afterEntryWrite
  simp only
  split
  · split
    case h_1 => exact h
    case h_5 => split <;> exact h
    all_goals exact follow_balance h
  · exact h

/-! ### The coordinate update (R45, R87) -/

theorem passSeams_balance {i : Cam} {x : Coord} {s : State} (h : LinesBalance s) : LinesBalance (passSeams i x s) := by
  unfold passSeams
  split
  next e _ =>
    have htrig := onTrig_balance (i := i) (f := fun t => { t with coil := e.coil, origin := e.coord, nLast := -1 }) h
    exact balance_of_cams htrig rfl
  next => exact h

theorem cameraUpdate_balance {i : Cam} {s : State} (h : LinesBalance s) : LinesBalance (cameraUpdate i s) := by
  unfold cameraUpdate
  split
  · exact h
  · split
    · split
      case h_1 | h_2 | h_3 => exact onTrig_balance (passSeams_balance h)
      all_goals exact onTrig_balance h
    · exact h

theorem updateInOrder_balance {o : UpdateOrder} {s : State} (h : LinesBalance s) : LinesBalance (updateInOrder o s) :=
  updateInOrder_keeps (fun _ ht => balance_of_cams ht (by simp)) (fun _ ht => balance_of_cams ht (by simp))
    (fun _ _ ht => cameraUpdate_balance ht) o h

/-! ### Arrivals -/

theorem offerPeer_balance {k : Kind} {p : List Byte} {s : State} (h : LinesBalance s) : LinesBalance (offerPeer k p s) := by
  cases k with
  | line | mark | ease | status | signon => exact balance_of_cams h (by simp [offerPeer])
  | beacon =>
    have hoffer := beaconOffer_balance (p := addAge p s.ring.linkDelay.toNat) h
    exact balance_of_cams hoffer (by simp [offerPeer])

theorem forward_balance {p : List Byte} {s : State} (h : LinesBalance s) : LinesBalance (forward p s) :=
  balance_of_cams h (by simp)

theorem processArrival_balance {r : Reception} {s : State} (h : LinesBalance s) : LinesBalance (processArrival r s) := by
  unfold processArrival processKnown
  split
  · split
    · split
      · split
        · exact balance_of_cams h (by simp)
        · split
          · exact h
          · exact forward_balance (offerPeer_balance h)
      · exact h
    · exact h
  · exact h

end Sys2Proof.LineCounters
end

section
/-! Every step keeps the line counters in balance (O59). -/
namespace Sys2Proof.LineCounters
open Sys2Proof.Machine Sys2Proof.Safety Sys2Proof.FibreRing Sys2Proof.StationRoll Sys2Proof.StripPosition
open Sys2Proof.SeamsAndCoils Sys2Proof.LineTriggering Sys2Proof.CameraPorts

/-! ### The commands that leave the cameras as they were -/

/-- The commands that can change a register of a camera. -/
def touchesCameras : Instr → Bool
  | .powerOnReset _ _ _ | .parcelArrival _ | .eepromReadComplete | .encoderSample _ _ | .cleanExpiry | .coordinateUpdate
  | .staleExpiry _ | .removalExpiry _ | .triggerPulseEnd _ | .lastTriggerTimeLapse _ | .triggerTimeout _ | .lineValidRise _
  | .lineCompletion _ _ | .darkExpiry _ | .restart _ _ _ => true
  | _ => false

/-- Every other command leaves the cameras as they were. -/
theorem exec_cams {c : Instr} (s : State) (hc : touchesCameras c = false) : NextHas (fun t => t.cams = s.cams) (exec c s) := by
  cases c with
  | powerOnReset | parcelArrival | eepromReadComplete | encoderSample | cleanExpiry | coordinateUpdate | staleExpiry
  | removalExpiry | triggerPulseEnd | lastTriggerTimeLapse | triggerTimeout | lineValidRise | lineCompletion | darkExpiry
  | restart => cases hc
  | dlvHold | incompleteFrame | item | high | eelo | eehi | eeread | clear | unknownCommand => exact nextHas rfl
  | partialDrop | clashExpiry | silenceExpiry | speedWindowExpiry | dlvCut => exact nextHas_ite rfl fun _ => rfl
  | lossOfLightOrLock => exact nextHas (by simp)
  | inboundUp | alignmentRunEnd | returnWatchExpiry | easeWindowExpiry | easeEntryExpiry =>
    exact nextHas_ite rfl fun _ => by simp
  | lightAndLock | sendCompletion | syncingCharacter | signonTimerExpiry | statusTimerExpiry | eepromWriteCompletion
  | indexPulse | beaconTimerExpiry | alignmentEnd | seamEdge | assemblyTimeout | dlvTake | nop | roll | eeaddr | eewrite =>
    refine nextHas ?_
    (repeat' split) <;> simp

/-! ### The commands that can change them -/

theorem joiningStation_balance {s : State} (h : LinesBalance s) : LinesBalance (joiningStation s) :=
  balance_of_counts h (fun i => by rw [joiningStation_cams]) (fun i => by rw [joiningStation_cams])

theorem passOnlyStation_balance {s : State} (h : LinesBalance s) : LinesBalance (passOnlyStation s) :=
  balance_of_counts h (fun i => by simp only [passOnlyStation, each_get]) (fun i => by simp only [passOnlyStation, each_get])

theorem eepromReadComplete_balance {s : State} (h : LinesBalance s) : NextHas LinesBalance (exec .eepromReadComplete s) := by
  refine nextHas_ite h fun _ => ?_
  simp only
  split
  · rw [enterJoining_takeSettings]
    refine balance_of_cams (joiningStation_balance h) ?_
    simp only
    (repeat' split) <;> simp
  · rw [enterPassOnly_finishRead]
    refine balance_of_cams (passOnlyStation_balance h) ?_
    split <;> simp

theorem poweredOn_balance (e : Vector Word16 128) (straps : Station) (a b l : Bool) (levels : Cam → Bool) (hold : Bool) (n : Nat)
    (q : List Instr) : LinesBalance (State.poweredOn e straps a b l levels hold n q) := by
  rw [linesBalance_iff]
  intro i
  rw [poweredOn_cams]
  exact balanced_of_reset _ _

/-- The counters of every camera begin again at a station restart (R116, R130). -/
theorem stationRestart_balance (straps : Station) (o : OpenParcel) (s : State) : LinesBalance (stationRestart straps o s) := by
  rw [linesBalance_iff]
  intro i
  rw [stationRestart, cams_get (camRestart (enterDark o s))]
  exact balanced_of_reset _ _

theorem restart_balance {arg : BitVec 12} {straps : Station} {o : OpenParcel} {s : State} (h : LinesBalance s) :
    NextHas LinesBalance (execRestart arg straps o s) := by
  unfold execRestart
  simp only
  split
  · exact nextHas h
  · exact nextHas (stationRestart_balance straps o _)

theorem cleanExpiry_balance {s : State} (h : LinesBalance s) : NextHas LinesBalance (execCleanExpiry s) := by
  refine nextHas_ite h fun _ => ?_
  split
  · exact returnToGood_balance h
  · exact h

theorem staleExpiry_balance {n : Station} {s : State} (h : LinesBalance s) : NextHas LinesBalance (execStaleExpiry n s) := by
  refine nextHas_ite h fun _ => ?_
  simp only
  split
  · exact followedStale_balance h
  · exact h

theorem removalExpiry_balance {n : Station} {s : State} (h : LinesBalance s) : NextHas LinesBalance (execRemovalExpiry n s) := by
  refine nextHas_ite h fun _ => ?_
  simp only
  split
  · exact enterHeld_balance h
  · exact h

theorem triggerTimeout_balance {i : Cam} {s : State} (h : LinesBalance s) : NextHas LinesBalance (execTriggerTimeout i s) := by
  refine nextHas_ite h fun _ => ?_
  split
  · exact dropExpired_balance _ h
  · exact h

theorem riseAt_produced (now : Time) (p : CameraPort) : (riseAt now p).produced = p.produced := by
  unfold riseAt
  split <;> rfl

theorem lineValidRise_balance {i : Cam} {s : State} (h : LinesBalance s) : NextHas LinesBalance (execLineValidRise i s) := by
  unfold execLineValidRise
  split
  · exact nextHas h
  · refine nextHas (onPort_balance h ?_)
    split
    · exact riseAt_produced _ _
    · rfl

theorem lineCompletion_balance {i : Cam} {pixels : List (BitVec 12)} {s : State} (h : LinesBalance s) :
    NextHas LinesBalance (execLineCompletion i pixels s) := by
  refine nextHas_ite h fun _ => ?_
  simp only
  split
  · split
    · exact completeLine_balance (onPort_balance (onPort_balance h rfl) rfl)
    · exact onPort_balance (onPort_balance h rfl) rfl
  · exact onPort_balance h rfl

/-- Every command keeps the line counters in balance. -/
theorem exec_balance (c : Instr) {s : State} (h : LinesBalance s) : NextHas LinesBalance (exec c s) := by
  cases hc : touchesCameras c with
  | false => exact (exec_cams s hc).mono fun _ => balance_of_cams h
  | true =>
    cases c with
    | powerOnReset => exact nextHas (poweredOn_balance _ _ _ _ _ _ _ _ _)
    | parcelArrival => exact nextHas_ite h fun _ => processArrival_balance h
    | eepromReadComplete => exact eepromReadComplete_balance h
    | encoderSample => exact nextHas (samplePair_balance h)
    | cleanExpiry => exact cleanExpiry_balance h
    | coordinateUpdate => exact nextHas_ite h fun _ => updateInOrder_balance h
    | staleExpiry => exact staleExpiry_balance h
    | removalExpiry => exact removalExpiry_balance h
    | triggerPulseEnd => exact nextHas_ite h fun _ => onTrig_balance h
    | lastTriggerTimeLapse => exact nextHas_ite h fun _ => onTrig_balance h
    | triggerTimeout => exact triggerTimeout_balance h
    | lineValidRise => exact lineValidRise_balance h
    | lineCompletion => exact lineCompletion_balance h
    | darkExpiry => exact nextHas_ite h fun _ => onPort_balance h rfl
    | restart => exact restart_balance h
    | _ => cases hc

theorem idleStep_cams (s : State) : (idleStep s).cams = s.cams := by
  unfold idleStep
  split
  · unfold tick readOn
    split <;> rfl
  all_goals rfl

/-- Settles O59: every command and the idle step keep the line counters in balance. -/
theorem stepsKeepTheLineBalance : Obligations.StepsKeepTheLineBalance :=
  kept_of_exec (fun _ _ h => h) (fun s h => balance_of_cams h (idleStep_cams s)) fun c _ => exec_balance c

end Sys2Proof.LineCounters
end

section
/-! The ease table: what an EASE and an entry's expiry write there, and the report of a change of the limiter (O21). -/
namespace Sys2Proof.EaseNotices
open Sys2Proof.Machine Sys2Proof.Safety Sys2Proof.FibreRing Sys2Proof.StripPosition

/-! ### The outbound port leaves the ease table alone -/

@[simp] theorem countDecision_table (c : Choice) (s : State) : (countDecision c s).ease.table = s.ease.table := by
  unfold countDecision
  split <;> rfl

@[simp] theorem launchControl_table (p : ControlParcel) (s : State) : (launchControl p s).ease.table = s.ease.table := by
  unfold launchControl
  split <;> simp

@[simp] theorem sendChosen_table (c : Choice) (s : State) : (sendChosen c s).ease.table = s.ease.table := by
  cases c with
  | idle => rfl
  | transit | control | line =>
    simp only [sendChosen]
    split <;> simp

@[simp] theorem outboundFree_table (s : State) : (outboundFree s).ease.table = s.ease.table := by
  simp [outboundFree]

@[simp] theorem freeWhileIdle_table (s : State) : (freeWhileIdle s).ease.table = s.ease.table := by
  have hbump (long : Prop) [Decidable long] : (if long then s else s.bump).ease = s.ease := by split <;> rfl
  unfold freeWhileIdle
  split
  · rfl
  · simp only
    split <;> simp [hbump]

/-! ### The report of a change of the limiter (R141) -/

/-- Only a change from refusing to allowing, with a line waiting, is an outbound-free event. -/
theorem reportLimiter_eq (before : Bool) (s : State) : reportLimiter before s =
    if before = false ∧ limiterAllows s.ease = true ∧ s.seg.lines ≠ [] then freeWhileIdle s else s :=
  if_congr (by simp [and_assoc]) rfl rfl

/-- The three cases of the report after the ease unit has become `u`; a busy port makes nothing of it. -/
theorem reportLimiter_of_unit (u : EaseUnit) (s : State) :
    (reportLimiter (limiterAllows s.ease) { s with ease := u }).ease.table = u.table
    ∧ (PortBusy s ∨ s.seg.lines = [] ∨ limiterAllows s.ease = true ∨ limiterAllows u = false →
        reportLimiter (limiterAllows s.ease) { s with ease := u } = { s with ease := u })
    ∧ (s.seg.lines ≠ [] → limiterAllows s.ease = false → limiterAllows u = true →
        reportLimiter (limiterAllows s.ease) { s with ease := u } = freeWhileIdle { s with ease := u }) := by
  rw [reportLimiter_eq]
  refine ⟨?_, fun h => ?_, fun hlines hbefore hafter => if_pos ⟨hbefore, hafter, hlines⟩⟩
  · split <;> simp
  · rcases h with hbusy | hsilent
    · rw [freeWhileIdle_of_busy (s := { s with ease := u }) hbusy, ite_self]
    · refine if_neg fun ⟨hbefore, hafter, hlines⟩ => ?_
      rcases hsilent with hnone | hallowed | hrefuses
      · exact hlines hnone
      · exact Bool.false_ne_true (hbefore.symm.trans hallowed)
      · exact Bool.false_ne_true (hrefuses.symm.trans hafter)

/-! ### The two events of the table (R138, R139) -/

/-- The table entry that an EASE arriving now makes (R138). -/
def heardEase (p : List Byte) (s : State) : EaseEntry :=
  { share := BitVec.ofNat 16 (max (easeShare p).toNat 64), expiry := s.time + 10000, live := true }

theorem offerPeer_ease (p : List Byte) (s : State) : offerPeer .ease p s =
    if (s.ctl.state ≠ .start ∧ s.ctl.state ≠ .passOnly) ∧ sourceField p ≠ s.ctl.number then
      reportLimiter (limiterAllows s.ease)
        { s with ease := { s.ease with table := put s.ease.table (sourceField p) (heardEase p s) } }
    else s :=
  if_congr (by rw [Bool.and_eq_true, runs_iff, bne_iff_ne]) rfl rfl

theorem exec_easeEntryExpiry_of_due {n : Station} {s : State} (h : easeDue s n = true) : exec (.easeEntryExpiry n) s =
    .next (reportLimiter (limiterAllows s.ease)
      { s with ease := { s.ease with table := put s.ease.table n { s.ease.table[n] with live := false } } }) :=
  congrArg Host.Outcome.next (if_pos h)

theorem exec_easeEntryExpiry_of_early {n : Station} {s : State} (h : ¬ easeDue s n = true) :
    exec (.easeEntryExpiry n) s = .next s :=
  congrArg Host.Outcome.next (if_neg h)

/-- Settles O21: an EASE by the station state and its source, an expiry by whether it has fallen. -/
theorem easeTableEntries : Obligations.EaseTableEntries := by
  refine ⟨fun p n s hn => ?_, fun n s => ⟨fun hdue u hu => ?_, fun hearly => ?_⟩⟩
  · subst hn
    rw [offerPeer_ease]
    refine ⟨fun hignored => if_neg (by tauto), fun hstart hpass hpeer u hu => ?_⟩
    rw [if_pos ⟨⟨hstart, hpass⟩, hpeer⟩]
    subst hu
    exact reportLimiter_of_unit _ s
  · subst hu
    exact ⟨_, exec_easeEntryExpiry_of_due ((easeDue_iff s n).mpr hdue), reportLimiter_of_unit _ s⟩
  · exact exec_easeEntryExpiry_of_early (mt (easeDue_iff s n).mp hearly)

end Sys2Proof.EaseNotices
end

section
/-! The ease window: the own rate, origination and renewal at a window expiry (O53). -/
namespace Sys2Proof.EaseNotices
open Sys2Proof.Machine Sys2Proof.Safety Sys2Proof.CameraPorts

/-! ### The own rate (R133) -/

theorem ofInt_clampInt_toNat (x : Int) : ((BitVec.ofInt 16 (clampInt 0 65535 x)).toNat : Int) = max 0 (min 65535 x) := by
  have hclamp : max 0 (min 65535 x) % ((2 ^ 16 : Nat) : Int) = max 0 (min 65535 x) :=
    Int.emod_eq_of_lt (by omega) (by omega)
  rw [clampInt, BitVec.toNat_ofInt, hclamp]
  omega

theorem smoothRate_toNat (a : Word16) (bytes : Nat) : ((smoothRate a bytes).toNat : Int) =
    max 0 (min 65535 ((a.toNat : Int) + (((bytes / 16 : Nat) : Int) - a.toNat) / 8)) := ofInt_clampInt_toNat _

/-! ### The origination test (R134) -/

/-- The station is to start originating: a blocked window at a well filled line queue, in RUNNING or OPEN. -/
def Starting (s : State) : Prop :=
  s.ease.originating = false ∧ (s.ctl.state = .running ∨ s.ctl.state = .ringOpen)
    ∧ 131072 ≤ lineOccupancy s.seg.lines ∧ 0 < s.ease.waiting ∧ s.ease.waiting ≤ 2 * s.ease.blocked

/-- The station is to stop originating: its line queue has drained below the ease-off mark. -/
def Stopping (s : State) : Prop := s.ease.originating = true ∧ lineOccupancy s.seg.lines < 65536

theorem Starting.not_stopping {s : State} (h : Starting s) : ¬ Stopping s := fun ⟨hset, _⟩ => by
  obtain ⟨hclear, _⟩ := h
  exact Bool.false_ne_true (hclear.symm.trans hset)

theorem starting_iff (s : State) : (!s.ease.originating && s.ctl.state.admits
    && decide (Config.easeOnMark ≤ lineOccupancy s.seg.lines) && windowBlocked s.ease) = true ↔ Starting s := by
  simp only [Bool.and_eq_true, Bool.not_eq_true', admits_iff, windowBlocked, decide_eq_true_iff, and_assoc]
  rfl

theorem stopping_iff (s : State) :
    (s.ease.originating && decide (lineOccupancy s.seg.lines < Config.easeOffMark)) = true ↔ Stopping s := by
  rw [Bool.and_eq_true, decide_eq_true_iff]
  rfl

theorem originate_of_starting {s : State} (h : Starting s) :
    originate s = { s with ease := { s.ease with originating := true, phase := false } } :=
  if_pos ((starting_iff s).mpr h)

theorem originate_of_stopping {s : State} (h : Stopping s) :
    originate s = { s with ease := { s.ease with originating := false, phase := false } } :=
  (if_neg fun hs => ((starting_iff s).mp hs).not_stopping h).trans (if_pos ((stopping_iff s).mpr h))

theorem originate_of_neither {s : State} (hstart : ¬ Starting s) (hstop : ¬ Stopping s) : originate s = s :=
  (if_neg (mt (starting_iff s).mp hstart)).trans (if_neg (mt (stopping_iff s).mp hstop))

/-! ### The renewal (R135) -/

/-- The state with the renewal phase moved on, which it does while the station originates. -/
def phaseMoved (s : State) : State :=
  { s with ease := { s.ease with phase := if s.ease.originating = true then !s.ease.phase else s.ease.phase } }

/-- An EASE request falls in phase 0 of an originating station. -/
theorem renew_eq (s : State) : renew s =
    if s.ease.originating = true ∧ s.ease.phase = false then
      placeRequest (.ease (BitVec.ofNat 16 (max s.ease.rate.toNat 64))) (phaseMoved s)
    else phaseMoved s := by
  unfold renew phaseMoved
  cases ho : s.ease.originating with
  | false => simp
  | true => cases hp : s.ease.phase <;> simp [onEase, requestEase, Config.minShare]

/-- An EASE is requested when the station starts to originate. -/
theorem renew_originate_of_starting {s : State} (h : Starting s) : renew (originate s) =
    placeRequest (.ease (BitVec.ofNat 16 (max s.ease.rate.toNat 64)))
      { s with ease := { s.ease with originating := true, phase := true } } := by
  rw [originate_of_starting h, renew_eq, if_pos ⟨rfl, rfl⟩]
  rfl

/-- No EASE is requested when the station stops. -/
theorem renew_originate_of_stopping {s : State} (h : Stopping s) :
    renew (originate s) = { s with ease := { s.ease with originating := false, phase := false } } := by
  rw [originate_of_stopping h, renew_eq, if_neg fun ⟨hset, _⟩ => Bool.false_ne_true hset]
  rfl

/-! ### The window expiry (R131, R133) -/

/-- The state with the next window begun and the own rate smoothed to `rate`. -/
def smoothed (rate : Word16) (s : State) : State :=
  { s with ease := { s.ease with windowTimer := s.ease.windowTimer + 1000, rate := rate } }

theorem starting_smoothed (rate : Word16) (s : State) : Starting (smoothed rate s) ↔ Starting s := by
  simp [Starting, smoothed]

theorem stopping_smoothed (rate : Word16) (s : State) : Stopping (smoothed rate s) ↔ Stopping s := by
  simp [Stopping, smoothed]

theorem phaseMoved_smoothed (rate : Word16) (s : State) : phaseMoved (smoothed rate s) =
    { s with ease := { s.ease with
      windowTimer := s.ease.windowTimer + 1000, rate := rate,
      phase := if s.ease.originating = true then !s.ease.phase else s.ease.phase } } := by
  unfold phaseMoved smoothed
  rfl

theorem smoothed_eq {rate : Word16} {s : State} (h : smoothRate s.ease.rate s.ease.bytes = rate) :
    onEase (fun e => { e with rate := smoothRate e.rate e.bytes })
      (onEase (fun e => { e with windowTimer := nextPeriod e.windowTimer Config.easeWindow }) s) = smoothed rate s := by
  simp [onEase, h, smoothed, nextPeriod, Config.easeWindow]

theorem windowOver_iff (s : State) :
    reached s.time s.ease.windowTimer Config.easeWindow = true ↔ 1000 ≤ (s.time - s.ease.windowTimer).toNat :=
  reached_iff _ _ _

theorem exec_easeWindowExpiry_of_early {s : State} (h : (s.time - s.ease.windowTimer).toNat < 1000) :
    exec .easeWindowExpiry s = .next s := by
  show execEaseWindowExpiry s = _
  rw [execEaseWindowExpiry, if_neg (mt (windowOver_iff s).mp (Nat.not_le.mpr h))]

theorem exec_easeWindowExpiry_of_due {s u : State} {rate : Word16} (h : 1000 ≤ (s.time - s.ease.windowTimer).toNat)
    (hrate : smoothRate s.ease.rate s.ease.bytes = rate) (hu : renew (originate (smoothed rate s)) = u) :
    exec .easeWindowExpiry s = .next (reportLimiter (limiterAllows u.ease) (clearWindow u)) := by
  show execEaseWindowExpiry s = _
  rw [execEaseWindowExpiry, if_pos ((windowOver_iff s).mpr h), windowExpiry, smoothed_eq hrate, hu]

/-- Settles O53: before the window is over, and at its end by whether the station starts, stops or goes on as it was. -/
theorem easeWindowCloses : Obligations.EaseWindowCloses := by
  refine fun s => ⟨exec_easeWindowExpiry_of_early, fun hdue rate starts stops e u v hrate hstarts hstops hestart hestop hego
    hu hv => ?_⟩
  have hsmooth : smoothRate s.ease.rate s.ease.bytes = rate :=
    BitVec.eq_of_toNat_eq (Int.ofNat_inj.mp ((smoothRate_toNat _ _).trans hrate.symm))
  have hstart : starts = true ↔ Starting (smoothed rate s) := hstarts.trans (starting_smoothed rate s).symm
  have hstop : stops = true ↔ Stopping (smoothed rate s) := hstops.trans (stopping_smoothed rate s).symm
  have hrenewed : renew (originate (smoothed rate s)) = u := by
    subst hu
    cases starts with
    | true =>
      rw [renew_originate_of_starting (hstart.mp rfl), if_pos (Or.inl rfl), hestart rfl]
      simp [smoothed]
    | false =>
      have hnotstart : ¬ Starting (smoothed rate s) := mt hstart.mpr Bool.false_ne_true
      cases stops with
      | true =>
        rw [renew_originate_of_stopping (hstop.mp rfl), if_neg (by simp), hestop rfl]
        simp [smoothed]
      | false =>
        rw [originate_of_neither hnotstart (mt hstop.mpr Bool.false_ne_true), renew_eq, phaseMoved_smoothed, hego rfl rfl]
        exact if_congr (by simp [smoothed]) rfl rfl
  rw [exec_easeWindowExpiry_of_due hdue hsmooth hrenewed, reportLimiter_eq, hv]
  rfl

end Sys2Proof.EaseNotices
end

section
/-! What the take-off unit does with a context, a record and a segment, case by case (R146 to R157). -/
namespace Sys2Proof.TakeOff
open Sys2Proof.Machine Sys2Proof.Safety

/-! ### Contexts (R148) -/

/-- No context of `u` is ASSEMBLING for the stream. -/
def Unassembled (u : TakeOffUnit) (stream : BitVec 6) : Prop :=
  ∀ (j : Fin 32) (x : Assembly), u.contexts[j] = some x → x.stream ≠ stream

theorem contextOf_eq_some {u : TakeOffUnit} {stream : BitVec 6} {k : Fin 32} {a : Assembly}
    (h : contextOf u stream = some (k, a)) : u.contexts[k] = some a ∧ a.stream = stream := by
  obtain ⟨j, -, hj⟩ := List.exists_of_findSome?_eq_some h
  split at hj
  next x hx =>
    split at hj
    next hstream => cases hj; exact ⟨hx, hstream⟩
    next => cases hj
  next => cases hj

theorem contextOf_eq_none_iff {u : TakeOffUnit} {stream : BitVec 6} : contextOf u stream = none ↔ Unassembled u stream := by
  rw [contextOf, List.findSome?_eq_none_iff]
  constructor
  · intro h j x hx hstream
    have hj := h j (List.mem_finRange j)
    simp only [hx, hstream, if_true] at hj
    cases hj
  · intro h j _
    split
    next x hx => exact if_neg (h j x hx)
    next => rfl

/-- The context that alone is ASSEMBLING for a stream is the one found. -/
theorem contextOf_of_alone {u : TakeOffUnit} {k : Fin 32} {a : Assembly} (hk : u.contexts[k] = some a)
    (halone : ∀ (j : Fin 32) (x : Assembly), u.contexts[j] = some x → x.stream = a.stream → j = k) :
    contextOf u a.stream = some (k, a) := by
  cases hfound : contextOf u a.stream with
  | none => exact absurd rfl (contextOf_eq_none_iff.mp hfound k a hk)
  | some found =>
    obtain ⟨j, x⟩ := found
    obtain ⟨hj, hstream⟩ := contextOf_eq_some hfound
    obtain rfl := halone j x hj hstream
    cases hk.symm.trans hj
    rfl

theorem freeContext_eq_some_iff {u : TakeOffUnit} {k : Fin 32} :
    freeContext u = some k ↔ u.contexts[k] = none ∧ ∀ j < k, u.contexts[j] ≠ none := by
  simp only [freeContext, ← Fin.find?_eq_find?_finRange, Fin.find?_eq_some_iff, Option.isNone_iff_eq_none,
    Option.isNone_eq_false_iff, Option.isSome_iff_ne_none]

theorem freeContext_eq_none_iff {u : TakeOffUnit} : freeContext u = none ↔ ∀ j : Fin 32, u.contexts[j] ≠ none := by
  simp only [freeContext, ← Fin.find?_eq_find?_finRange, Fin.find?_eq_none_iff, Option.isNone_eq_false_iff,
    Option.isSome_iff_ne_none]

theorem put_eq_self {α : Type} {n : Nat} {v : Vector α n} {k : Fin n} {x : α} (h : v[k] = x) : put v k x = v := by
  subst h
  exact Vector.set_getElem_self _

/-! ### Records (R156, R157) -/

theorem appendRecord_of_room {r : DeliveryRecord} {u : TakeOffUnit} (h : u.queue.length < 128) :
    appendRecord r u = { u with queue := u.queue ++ [r] } := if_pos h

theorem appendRecord_of_full {r : DeliveryRecord} {u : TakeOffUnit} (h : 128 ≤ u.queue.length) :
    appendRecord r u = { u with free := u.free ++ r.blocks, deliveryOverflow := satInc u.deliveryOverflow } :=
  if_neg (Nat.not_lt.mpr h)

/-! ### Broken lines (R154) -/

/-- The unit after a broken line at context `k`, before its blocks are freed or delivered. -/
def brokenAt (k : Fin 32) (u : TakeOffUnit) : TakeOffUnit :=
  { u with contexts := put u.contexts k none, brokenLines := satInc u.brokenLines }

/-- Under DISCARD, or with no segment held, the blocks are freed. -/
theorem breakContext_of_discard {now : Time} {deliver : Bool} {k : Fin 32} {a : Assembly} {u : TakeOffUnit}
    (h : deliver = false ∨ a.next = 0) :
    breakContext now deliver k a u = { brokenAt k u with free := u.free ++ a.blocks } := by
  refine if_neg fun hboth => ?_
  simp only [Bool.and_eq_true, decide_eq_true_iff] at hboth
  obtain ⟨hdeliver, hheld⟩ := hboth
  rcases h with h | h
  · exact Bool.false_ne_true (h.symm.trans hdeliver)
  · omega

/-- A broken line is delivered under DELIVER with a segment held, and discarded otherwise. -/
theorem discarded_or_delivered (deliver : Bool) (a : Assembly) :
    (deliver = false ∨ a.next = 0) ∨ (deliver = true ∧ 1 ≤ a.next) := by
  cases deliver with
  | false => exact .inl (.inl rfl)
  | true => exact (Nat.eq_zero_or_pos a.next).imp .inr fun hheld => ⟨rfl, hheld⟩

/-- Under DELIVER with a segment held, the segments held join the delivery queue. -/
theorem breakContext_of_deliver {now : Time} {k : Fin 32} {a : Assembly} {u : TakeOffUnit} (h : 1 ≤ a.next) :
    breakContext now true k a u = appendRecord (recordOf now true a) (brokenAt k u) :=
  if_pos (by simp [h])

theorem appendRecord_contexts (r : DeliveryRecord) (u : TakeOffUnit) : (appendRecord r u).contexts = u.contexts := by
  unfold appendRecord
  split <;> rfl

theorem appendRecord_store (r : DeliveryRecord) (u : TakeOffUnit) : (appendRecord r u).store = u.store := by
  unfold appendRecord
  split <;> rfl

theorem breakContext_contexts (now : Time) (deliver : Bool) (k : Fin 32) (a : Assembly) (u : TakeOffUnit) :
    (breakContext now deliver k a u).contexts = put u.contexts k none := by
  rcases discarded_or_delivered deliver a with hdiscard | ⟨rfl, hheld⟩
  · rw [breakContext_of_discard hdiscard]
    rfl
  · rw [breakContext_of_deliver hheld, appendRecord_contexts]
    rfl

theorem appendRecord_orphanSegments (r : DeliveryRecord) (u : TakeOffUnit) :
    (appendRecord r u).orphanSegments = u.orphanSegments := by
  unfold appendRecord
  split <;> rfl

theorem breakContext_orphanSegments (now : Time) (deliver : Bool) (k : Fin 32) (a : Assembly) (u : TakeOffUnit) :
    (breakContext now deliver k a u).orphanSegments = u.orphanSegments := by
  rcases discarded_or_delivered deliver a with hdiscard | ⟨rfl, hheld⟩
  · rw [breakContext_of_discard hdiscard]
    rfl
  · rw [breakContext_of_deliver hheld, appendRecord_orphanSegments]
    rfl

/-- With the one context of a stream broken, no context assembles it. -/
theorem unassembled_breakContext {now : Time} {deliver : Bool} {k : Fin 32} {a : Assembly} {u : TakeOffUnit} {stream : BitVec 6}
    (halone : ∀ (j : Fin 32) (x : Assembly), u.contexts[j] = some x → x.stream = stream → j = k) :
    Unassembled (breakContext now deliver k a u) stream := by
  intro j x hx hstream
  rw [breakContext_contexts, put_get] at hx
  split at hx
  next => cases hx
  next hne => exact hne (halone j x hx hstream).symm

/-! ### Segments (R149, R151) -/

/-- The line `a` with one more segment, held in block `b` (R149). -/
def extended (now : Time) (g : Segment) (b : Block) (a : Assembly) : Assembly :=
  { a with blocks := a.blocks ++ [b], next := a.next + 1, pixels := a.pixels + g.pixels, lastArrival := now }

/-- The unit with the payload of a segment copied to block `b`, and `rest` free after it. -/
def copied (g : Segment) (b : Block) (rest : List Block) (u : TakeOffUnit) : TakeOffUnit :=
  { u with free := rest, store := u.store.write (blockAddress b 0) g.payload }

/-- The unit after that segment made the line of context `k` whole, before its record joins the delivery queue. -/
def wholeAt (k : Fin 32) (g : Segment) (b : Block) (rest : List Block) (u : TakeOffUnit) : TakeOffUnit :=
  { copied g b rest u with contexts := put u.contexts k none, linesTaken := satInc u.linesTaken }

theorem blockAddress_zero (b : Block) : blockAddress b 0 = b.val * 2048 := Nat.add_zero _

theorem placeSegment_of_full {now : Time} {deliver : Bool} {g : Segment} {k : Fin 32} {a : Assembly} {u : TakeOffUnit}
    (h : u.free = []) :
    placeSegment now deliver g k a u = breakContext now deliver k a { u with storeFull := satInc u.storeFull } := by
  rw [placeSegment, h]

theorem placeSegment_of_part {now : Time} {deliver : Bool} {g : Segment} {k : Fin 32} {a : Assembly} {u : TakeOffUnit}
    {b : Block} {rest : List Block} (h : u.free = b :: rest) (hpart : a.next + 1 ≠ a.segCount) :
    placeSegment now deliver g k a u =
      { copied g b rest u with contexts := put u.contexts k (some (extended now g b a)) } := by
  rw [placeSegment, h]
  exact if_neg hpart

theorem placeSegment_of_whole {now : Time} {deliver : Bool} {g : Segment} {k : Fin 32} {a : Assembly} {u : TakeOffUnit}
    {b : Block} {rest : List Block} (h : u.free = b :: rest) (hwhole : a.next + 1 = a.segCount) :
    placeSegment now deliver g k a u = appendRecord (recordOf now false (extended now g b a)) (wholeAt k g b rest u) := by
  rw [placeSegment, h]
  exact if_pos hwhole

/-- The bytes of the line store after a segment is placed. -/
theorem placeSegment_store {now : Time} {deliver : Bool} {g : Segment} {k : Fin 32} {a : Assembly} {u : TakeOffUnit}
    {b : Block} {rest : List Block} (h : u.free = b :: rest) :
    (placeSegment now deliver g k a u).store = u.store.write (b.val * 2048) g.payload := by
  rw [← blockAddress_zero]
  by_cases hwhole : a.next + 1 = a.segCount
  · rw [placeSegment_of_whole h hwhole, appendRecord_store]
    rfl
  · rw [placeSegment_of_part h hwhole]
    rfl

/-- A segment placed in context `k` changes no other context. -/
theorem placeSegment_contexts {now : Time} {deliver : Bool} {g : Segment} {k : Fin 32} {a : Assembly} {u : TakeOffUnit}
    {b : Block} {rest : List Block} (h : u.free = b :: rest) : (placeSegment now deliver g k a u).contexts =
      put u.contexts k (if a.next + 1 = a.segCount then none else some (extended now g b a)) := by
  split
  next hwhole =>
    rw [placeSegment_of_whole h hwhole, appendRecord_contexts]
    rfl
  next hpart => rw [placeSegment_of_part h hpart]

/-! ### Segments of a stream with no context (R148, R152) -/

theorem withoutContext_of_orphan {now : Time} {deliver mayOpen : Bool} {hit : Fin 8} {g : Segment} {u : TakeOffUnit}
    (h : g.index ≠ 0) :
    withoutContext now deliver mayOpen hit g u = { u with orphanSegments := satInc u.orphanSegments } := if_neg h

theorem withoutContext_of_opening {now : Time} {deliver : Bool} {hit : Fin 8} {g : Segment} {u : TakeOffUnit} {k : Fin 32}
    (hindex : g.index = 0) (hfree : freeContext u = some k) :
    withoutContext now deliver true hit g u = placeSegment now deliver g k (openedBy now hit g) u := by
  unfold withoutContext
  rw [if_pos hindex, hfree]

theorem withoutContext_of_noContext {now : Time} {deliver mayOpen : Bool} {hit : Fin 8} {g : Segment} {u : TakeOffUnit}
    (hindex : g.index = 0) (hnone : mayOpen = false ∨ freeContext u = none) :
    withoutContext now deliver mayOpen hit g u = { u with noContext := satInc u.noContext } := by
  unfold withoutContext
  rw [if_pos hindex]
  rcases hnone with hshut | hfull
  · rw [hshut]
  · rw [hfull]
    cases mayOpen <;> rfl

/-! ### Consistent segments (Table 9.3) -/

theorem takeSegment_of_unassembled {now : Time} {deliver mayOpen : Bool} {hit : Fin 8} {g : Segment} {u : TakeOffUnit}
    (h : Unassembled u (streamOf g)) :
    takeSegment now deliver mayOpen hit g u = withoutContext now deliver mayOpen hit g u := by
  rw [takeSegment, contextOf_eq_none_iff.mpr h]

theorem takeSegment_of_inOrder {now : Time} {deliver mayOpen : Bool} {hit : Fin 8} {g : Segment} {u : TakeOffUnit}
    {k : Fin 32} {a : Assembly} (h : contextOf u (streamOf g) = some (k, a)) (hserial : a.serial = g.serial)
    (hindex : g.index = a.next) :
    takeSegment now deliver mayOpen hit g u = placeSegment now deliver g k a u := by
  rw [takeSegment, h]
  exact (if_pos hserial).trans (if_pos hindex)

theorem takeSegment_of_gap {now : Time} {deliver mayOpen : Bool} {hit : Fin 8} {g : Segment} {u : TakeOffUnit}
    {k : Fin 32} {a : Assembly} (h : contextOf u (streamOf g) = some (k, a)) (hserial : a.serial = g.serial)
    (hindex : g.index ≠ a.next) :
    takeSegment now deliver mayOpen hit g u = breakContext now deliver k a u := by
  rw [takeSegment, h]
  exact (if_pos hserial).trans (if_neg hindex)

theorem takeSegment_of_otherLine {now : Time} {deliver mayOpen : Bool} {hit : Fin 8} {g : Segment} {u : TakeOffUnit}
    {k : Fin 32} {a : Assembly} (h : contextOf u (streamOf g) = some (k, a)) (hserial : a.serial ≠ g.serial) :
    takeSegment now deliver mayOpen hit g u = withoutContext now deliver mayOpen hit g (breakContext now deliver k a u) := by
  rw [takeSegment, h]
  exact if_neg hserial

/-! ### LINE offers (R146, R147) -/

theorem lineOffer_of_off {p : List Byte} {s : State} (h : s.ctl.state.runs = false ∨ s.takeOffEnabled = false) :
    lineOffer p s = s := by
  unfold lineOffer
  split
  next => rfl
  next t ht =>
    refine if_neg fun hon => ?_
    simp only [Bool.and_eq_true] at hon
    obtain ⟨hruns, htake⟩ := hon
    rcases h with h | h
    · exact Bool.false_ne_true (h.symm.trans hruns)
    · rw [State.takeOffEnabled, ht] at h
      exact Bool.false_ne_true (h.symm.trans htake)

section Taken
variable {p : List Byte} {s : State} {t : Settings} (ht : s.store.settings = some t) (htake : t.takeOff = true)
  (hruns : s.ctl.state.runs = true)
include ht htake hruns

theorem lineOffer_of_noStream (h : 3 < (segmentOf p).camera) :
    lineOffer p s = { s with take := { s.take with orphanSegments := satInc s.take.orphanSegments } } := by
  simp only [lineOffer, ht, htake, hruns, Bool.and_true, if_true, if_pos h, onTake]

theorem lineOffer_of_noHit (h : (segmentOf p).camera ≤ 3) (hnone : filterHit t (streamOf (segmentOf p)) = none) :
    lineOffer p s = s := by
  simp only [lineOffer, ht, htake, hruns, Bool.and_true, if_true, if_neg (Nat.not_lt.mpr h), hnone]

theorem lineOffer_of_hit {hit : Fin 8} (h : (segmentOf p).camera ≤ 3)
    (hhit : filterHit t (streamOf (segmentOf p)) = some hit) : lineOffer p s = { s with
      take := testSegment s.time t.deliverBroken (s.ctl.state != .duplicate) hit (segmentOf p) s.take } := by
  simp only [lineOffer, ht, htake, hruns, Bool.and_true, if_true, if_neg (Nat.not_lt.mpr h), hhit, onTake]

theorem lineOffer_of_consistent {hit : Fin 8} (h : (segmentOf p).camera ≤ 3)
    (hhit : filterHit t (streamOf (segmentOf p)) = some hit) (hcons : consistent (segmentOf p) = true) :
    lineOffer p s = { s with
      take := takeSegment s.time t.deliverBroken (s.ctl.state != .duplicate) hit (segmentOf p) s.take } := by
  rw [lineOffer_of_hit ht htake hruns h hhit, testSegment, if_pos hcons]

end Taken

end Sys2Proof.TakeOff
end

section
/-! Every step keeps the take-off unit sound (O56): its operations move blocks between the free list, the contexts and the delivery
queue, and none gets lost or doubled on the way. -/
namespace Sys2Proof.TakeOff
open Sys2Proof.Machine Sys2Proof.Safety Sys2Proof.FibreRing Sys2Proof.StationRoll Sys2Proof.StripPosition

/-! ### What holds of the take-off unit between the parts of an operation -/

/-- The line of a context is begun and not whole, with a block for each segment held (R149). -/
def InPart (a : Assembly) : Prop := a.blocks.length = a.next ∧ 1 ≤ a.next ∧ a.next < a.segCount ∧ a.segCount ≤ 16

/-- Word position `n` lies within the head record of the queue, and is 0 with no record (R164). -/
def WithinHead (n : Nat) : List DeliveryRecord → Prop
  | [] => n = 0
  | r :: _ => n < wordCount r

/-- The unit is sound at word position `n` but for the blocks `inHand`, which an operation has taken from their place and not yet
put in another. -/
structure SoundBut (inHand : List Block) (n : Nat) (u : TakeOffUnit) : Prop where
  blocks : (blocksOf u ++ inHand).Perm (List.finRange 512)
  streams : ∀ (j k : Fin 32) (a b : Assembly), u.contexts[j] = some a → u.contexts[k] = some b → a.stream = b.stream → j = k
  inPart : ∀ (k : Fin 32) (a : Assembly), u.contexts[k] = some a → InPart a
  position : WithinHead n u.queue
  canonical : u.store.wf = true

/-- The unit of a state is sound, with every block in its place. -/
def Sound (s : State) : Prop := SoundBut [] s.dlv.position s.take

theorem positionWithin_iff (s : State) : PositionWithin s ↔ WithinHead s.dlv.position s.take.queue := by
  unfold PositionWithin
  cases s.take.queue <;> rfl

/-- What `StepsKeepTheTakeOffUnit` keeps is `Sound`. -/
theorem sound_iff (s : State) :
    BlocksAccounted s ∧ OneContextPerStream s ∧ ContextsInPart s ∧ PositionWithin s ∧ StoreCanonical s ↔ Sound s := by
  rw [positionWithin_iff]
  constructor
  · rintro ⟨blocks, streams, inPart, position, canonical⟩
    exact ⟨by rwa [List.append_nil], streams, inPart, position, canonical⟩
  · rintro ⟨blocks, streams, inPart, position, canonical⟩
    rw [List.append_nil] at blocks
    exact ⟨blocks, streams, inPart, position, canonical⟩

/-! ### Blocks on their way -/

/-- The blocks of the contexts after one context is replaced: the old content's have left, the new one's have come. -/
theorem contextBlocks_put (v : Vector (Option Assembly) 32) (k : Fin 32) (x : Option Assembly) :
    (contextBlocks v[k] ++ (put v k x).toList.flatMap contextBlocks).Perm
      (contextBlocks x ++ v.toList.flatMap contextBlocks) := by
  have hk : k.val < v.toList.length := by simp
  have hput : (put v k x).toList = v.toList.take k ++ x :: v.toList.drop (k + 1) := by
    rw [put, Vector.toList_set, List.set_eq_take_append_cons_drop, if_pos hk]
  have hsplit : v.toList = v.toList.take k ++ v[k] :: v.toList.drop (k + 1) := by
    have hget : v[k] = v.toList[k.val] := by simp
    rw [hget, ← List.drop_eq_getElem_cons hk, List.take_append_drop]
  rw [hput]
  conv => rhs; rw [hsplit]
  simp only [List.flatMap_append, List.flatMap_cons, List.perm_iff_count, List.count_append]
  omega

/-- A context takes a new content: its former blocks come into the hand, the blocks of the new line leave it. -/
theorem SoundBut.replaced {u : TakeOffUnit} {n : Nat} {l l' : List Block} {k : Fin 32} {x : Option Assembly} (h : SoundBut l n u)
    (hblocks : (contextBlocks u.contexts[k] ++ l).Perm (contextBlocks x ++ l'))
    (hx : ∀ a, x = some a → InPart a ∧ ∀ (j : Fin 32) (y : Assembly), u.contexts[j] = some y → y.stream = a.stream → j = k) :
    SoundBut l' n { u with contexts := put u.contexts k x } where
  blocks := by
    have hput := contextBlocks_put u.contexts k x
    have hall := h.blocks
    simp only [List.perm_iff_count, blocksOf, List.count_append] at hput hall hblocks ⊢
    intro b
    have := hput b
    have := hall b
    have := hblocks b
    omega
  streams i j a b hi hj hstream := by
    rw [put_get] at hi hj
    split at hi
    next hik =>
      split at hj
      next hjk => exact hik.symm.trans hjk
      next => exact hik.symm.trans ((hx a hi).2 j b hj hstream.symm).symm
    next =>
      split at hj
      next hjk => exact ((hx b hj).2 i a hi hstream).trans hjk
      next => exact h.streams i j a b hi hj hstream
  inPart j a hj := by
    rw [put_get] at hj
    split at hj
    next => exact (hx a hj).1
    next => exact h.inPart j a hj
  position := h.position
  canonical := h.canonical

/-- A context becomes FREE, its blocks in hand. -/
theorem SoundBut.freed {u : TakeOffUnit} {n : Nat} {l : List Block} {k : Fin 32} (h : SoundBut l n u) :
    SoundBut (contextBlocks u.contexts[k] ++ l) n { u with contexts := put u.contexts k none } :=
  h.replaced (.refl _) nofun

/-- The blocks in hand join the free list. -/
theorem SoundBut.release {u : TakeOffUnit} {n : Nat} {l : List Block} (h : SoundBut l n u) :
    SoundBut [] n { u with free := u.free ++ l } :=
  { h with
    blocks := by
      have hall := h.blocks
      simp only [List.perm_iff_count, blocksOf, List.count_append, List.count_nil] at hall ⊢
      intro b
      have := hall b
      omega }

/-- A record at the tail leaves the head record and the position as they were; position 0 lies within any record. -/
theorem withinHead_append {n : Nat} {q : List DeliveryRecord} (h : WithinHead n q) (r : DeliveryRecord) :
    WithinHead n (q ++ [r]) := by
  cases q with
  | nil =>
    obtain rfl : n = 0 := h
    show 0 < wordCount r
    unfold wordCount
    split <;> omega
  | cons => exact h

/-- The blocks in hand join the delivery queue as a record, or at a full queue the free list (R157). -/
theorem SoundBut.appendRecord {u : TakeOffUnit} {n : Nat} {r : DeliveryRecord} (h : SoundBut r.blocks n u) :
    SoundBut [] n (appendRecord r u) := by
  rcases Nat.lt_or_ge u.queue.length 128 with hroom | hfull
  · rw [appendRecord_of_room hroom]
    refine { h with position := withinHead_append h.position r, blocks := ?_ }
    have hall := h.blocks
    simp only [List.perm_iff_count, blocksOf, List.count_append, List.flatMap_append, List.flatMap_singleton,
      List.count_nil] at hall ⊢
    intro b
    have := hall b
    omega
  · rw [appendRecord_of_full hfull]
    exact { h.release with }

/-- The head of the free list comes into the hand, with a payload copied to it (R149). -/
theorem SoundBut.copied {u : TakeOffUnit} {n : Nat} {g : Segment} {b : Block} {rest : List Block} (h : SoundBut [] n u)
    (hfree : u.free = b :: rest) : SoundBut [b] n (copied g b rest u) :=
  { h with
    canonical := Memory.write_wf _ _ _ h.canonical
    blocks := by
      have hall := h.blocks
      rw [blocksOf, hfree, ← List.singleton_append] at hall
      simp only [TakeOff.copied, List.perm_iff_count, blocksOf, List.count_append, List.count_nil] at hall ⊢
      intro c
      have := hall c
      omega }

/-! ### Lines -/

/-- The line `a` can take one segment more at context `k`: it is the line of that context, or the context is FREE and the line
holds no block yet. -/
structure Continues (u : TakeOffUnit) (k : Fin 32) (a : Assembly) : Prop where
  blocks : contextBlocks u.contexts[k] = a.blocks
  length : a.blocks.length = a.next
  incomplete : a.next < a.segCount
  most : a.segCount ≤ 16
  alone : ∀ (j : Fin 32) (x : Assembly), u.contexts[j] = some x → x.stream = a.stream → j = k

theorem SoundBut.continues {u : TakeOffUnit} {n : Nat} {l : List Block} {k : Fin 32} {a : Assembly} (h : SoundBut l n u)
    (hk : u.contexts[k] = some a) : Continues u k a := by
  obtain ⟨hlength, -, hincomplete, hmost⟩ := h.inPart k a hk
  exact ⟨by rw [hk]; rfl, hlength, hincomplete, hmost, fun j x hj => h.streams j k x a hj hk⟩

/-- Segment 0 of a consistent line begins at a FREE context (R148). -/
theorem continues_openedBy {now : Time} {hit : Fin 8} {u : TakeOffUnit} {k : Fin 32} {g : Segment} (hk : u.contexts[k] = none)
    (hcons : consistent g = true) (hstream : Unassembled u (streamOf g)) : Continues u k (openedBy now hit g) := by
  obtain ⟨-, hfirst, hmost, -⟩ := of_decide_eq_true hcons
  exact ⟨by rw [hk]; rfl, rfl, hfirst, hmost, fun j x hj hx => absurd hx (hstream j x hj)⟩

theorem SoundBut.breakContext {u : TakeOffUnit} {n : Nat} {now : Time} {deliver : Bool} {k : Fin 32} {a : Assembly}
    (h : SoundBut [] n u) (hk : contextBlocks u.contexts[k] = a.blocks) : SoundBut [] n (breakContext now deliver k a u) := by
  have hbroken : SoundBut a.blocks n (brokenAt k u) := by
    have hfreed := h.freed (k := k)
    rw [hk, List.append_nil] at hfreed
    exact { hfreed with }
  rcases discarded_or_delivered deliver a with hdiscard | ⟨rfl, hheld⟩
  · rw [breakContext_of_discard hdiscard]
    exact hbroken.release
  · rw [breakContext_of_deliver hheld]
    exact SoundBut.appendRecord (r := recordOf now true a) hbroken

theorem SoundBut.placeSegment {u : TakeOffUnit} {n : Nat} {now : Time} {deliver : Bool} {g : Segment} {k : Fin 32} {a : Assembly}
    (h : SoundBut [] n u) (hk : Continues u k a) : SoundBut [] n (placeSegment now deliver g k a u) := by
  cases hfree : u.free with
  | nil =>
    rw [placeSegment_of_full hfree]
    exact SoundBut.breakContext { h with } hk.blocks
  | cons b rest =>
    have hcopied : SoundBut [b] n (TakeOff.copied g b rest u) := h.copied hfree
    have hblocks : contextBlocks (TakeOff.copied g b rest u).contexts[k] ++ [b] = (extended now g b a).blocks :=
      congrArg (· ++ [b]) hk.blocks
    by_cases hwhole : a.next + 1 = a.segCount
    · rw [placeSegment_of_whole hfree hwhole]
      have hfreed := hcopied.freed (k := k)
      rw [hblocks] at hfreed
      exact SoundBut.appendRecord (r := recordOf now false (extended now g b a)) { hfreed with }
    · rw [placeSegment_of_part hfree hwhole]
      have hincomplete := hk.incomplete
      have hpart : InPart (extended now g b a) :=
        ⟨by simp [extended, hk.length], Nat.le_add_left _ _, by simp only [extended]; omega, hk.most⟩
      refine hcopied.replaced (by rw [hblocks, List.append_nil]; exact .refl _) fun x hx => ?_
      cases hx
      exact ⟨hpart, hk.alone⟩

theorem SoundBut.withoutContext {u : TakeOffUnit} {n : Nat} {now : Time} {deliver mayOpen : Bool} {hit : Fin 8} {g : Segment}
    (h : SoundBut [] n u) (hcons : consistent g = true) (hstream : Unassembled u (streamOf g)) :
    SoundBut [] n (withoutContext now deliver mayOpen hit g u) := by
  by_cases hindex : g.index = 0
  · cases hfree : freeContext u with
    | none =>
      rw [withoutContext_of_noContext hindex (.inr hfree)]
      exact { h with }
    | some k =>
      cases mayOpen with
      | false =>
        rw [withoutContext_of_noContext hindex (.inl rfl)]
        exact { h with }
      | true =>
        rw [withoutContext_of_opening hindex hfree]
        exact h.placeSegment (continues_openedBy (freeContext_eq_some_iff.mp hfree).1 hcons hstream)
  · rw [withoutContext_of_orphan hindex]
    exact { h with }

theorem SoundBut.takeSegment {u : TakeOffUnit} {n : Nat} {now : Time} {deliver mayOpen : Bool} {hit : Fin 8} {g : Segment}
    (h : SoundBut [] n u) (hcons : consistent g = true) : SoundBut [] n (takeSegment now deliver mayOpen hit g u) := by
  cases hfound : contextOf u (streamOf g) with
  | none =>
    have hstream := contextOf_eq_none_iff.mp hfound
    rw [takeSegment_of_unassembled hstream]
    exact h.withoutContext hcons hstream
  | some found =>
    obtain ⟨k, a⟩ := found
    obtain ⟨hk, hstream⟩ := contextOf_eq_some hfound
    have hcontinues : Continues u k a := h.continues hk
    have hbroken : SoundBut [] n (Machine.breakContext now deliver k a u) := h.breakContext hcontinues.blocks
    by_cases hserial : a.serial = g.serial
    · by_cases hindex : g.index = a.next
      · rw [takeSegment_of_inOrder hfound hserial hindex]
        exact h.placeSegment hcontinues
      · rw [takeSegment_of_gap hfound hserial hindex]
        exact hbroken
    · rw [takeSegment_of_otherLine hfound hserial]
      exact hbroken.withoutContext hcons (unassembled_breakContext (hstream ▸ hcontinues.alone))

theorem SoundBut.testSegment {u : TakeOffUnit} {n : Nat} {now : Time} {deliver mayOpen : Bool} {hit : Fin 8} {g : Segment}
    (h : SoundBut [] n u) : SoundBut [] n (testSegment now deliver mayOpen hit g u) := by
  unfold Machine.testSegment
  split
  next hcons => exact h.takeSegment hcons
  next => exact { h with }

/-! ### Offers, arrivals and the delivery port -/

theorem sound_of_takeOff {s t : State} (h : Sound s) (heq : t.take = s.take ∧ t.dlv.position = s.dlv.position) : Sound t := by
  obtain ⟨htake, hposition⟩ := heq
  rw [Sound, htake, hposition]
  exact h

theorem lineOffer_sound {p : List Byte} {s : State} (h : Sound s) : Sound (lineOffer p s) := by
  unfold lineOffer
  split
  · exact h
  · split
    · simp only
      split
      · exact { h with }
      · split
        · exact SoundBut.testSegment h
        · exact h
    · exact h

theorem ownReturn_sound {k : Kind} {p : List Byte} {s : State} (h : Sound s) : Sound (ownReturn k p s) := by
  cases k with
  | line => exact lineOffer_sound h
  | beacon | mark | ease | status | signon => exact sound_of_takeOff h (by simp [ownReturn])

theorem offerPeer_sound {k : Kind} {p : List Byte} {s : State} (h : Sound s) : Sound (offerPeer k p s) := by
  cases k with
  | line => exact lineOffer_sound h
  | beacon | mark | ease | status | signon => exact sound_of_takeOff h (by simp [offerPeer])

theorem forward_sound {p : List Byte} {s : State} (h : Sound s) : Sound (forward p s) := sound_of_takeOff h (by simp)

theorem processArrival_sound {r : Reception} {s : State} (h : Sound s) : Sound (processArrival r s) := by
  unfold processArrival processKnown
  split
  · split
    · split
      · split
        · exact ownReturn_sound h
        · split
          · exact h
          · exact forward_sound (offerPeer_sound h)
      · exact h
    · exact h
  · exact h

/-- The head record leaves the queue, and the next is read from its first word (R166). -/
theorem release_sound {s : State} (h : Sound s) : Sound (release s) := by
  show SoundBut [] 0 (releaseHead s.take)
  have hall := h.blocks
  have hposition := h.position
  unfold releaseHead
  split
  next hq =>
    rw [hq] at hposition
    exact { h with position := by rw [hq]; rfl }
  next r rest hq =>
    refine { h with blocks := ?_, position := ?_ }
    · simp only [List.perm_iff_count, blocksOf, hq, List.flatMap_cons, List.count_append, List.count_nil] at hall ⊢
      intro b
      have := hall b
      omega
    · cases rest with
      | nil => rfl
      | cons next more => exact withinHead_append (q := []) rfl next

/-! ### Every command and the idle step -/

/-- The commands that can change the take-off unit or the word position. -/
def touchesTakeOff : Instr → Bool
  | .powerOnReset _ _ _ | .parcelArrival _ | .assemblyTimeout _ | .dlvTake | .dlvCut | .clear _ | .restart _ _ _ => true
  | _ => false

theorem eepromReadComplete_takeOff (s : State) :
    NextHas (fun t => t.take = s.take ∧ t.dlv.position = s.dlv.position) (exec .eepromReadComplete s) := by
  refine nextHas_ite ⟨rfl, rfl⟩ fun _ => ?_
  simp only
  split
  · rw [enterJoining_takeSettings]
    simp only
    (repeat' split) <;> simp [joiningStation_rest]
  · rw [enterPassOnly_finishRead]
    split <;> simp [passOnlyStation]

/-- Every other command leaves both as they were. -/
theorem exec_takeOff {c : Instr} (s : State) (hc : touchesTakeOff c = false) :
    NextHas (fun t => t.take = s.take ∧ t.dlv.position = s.dlv.position) (exec c s) := by
  cases c with
  | powerOnReset | parcelArrival | assemblyTimeout | dlvTake | dlvCut | clear | restart => cases hc
  | eepromReadComplete => exact eepromReadComplete_takeOff s
  | dlvHold | incompleteFrame | item | high | eelo | eehi | eeread | unknownCommand => exact nextHas ⟨rfl, rfl⟩
  | partialDrop | clashExpiry | silenceExpiry | speedWindowExpiry | triggerPulseEnd | lastTriggerTimeLapse | darkExpiry =>
    exact nextHas_ite ⟨rfl, rfl⟩ fun _ => ⟨rfl, rfl⟩
  | lossOfLightOrLock | encoderSample => exact nextHas (by simp)
  | inboundUp | alignmentRunEnd | returnWatchExpiry | easeWindowExpiry | easeEntryExpiry | coordinateUpdate =>
    exact nextHas_ite ⟨rfl, rfl⟩ fun _ => by simp
  | lightAndLock | sendCompletion | syncingCharacter | signonTimerExpiry | statusTimerExpiry | eepromWriteCompletion
  | indexPulse | beaconTimerExpiry | alignmentEnd | seamEdge | nop | roll | eeaddr | eewrite | cleanExpiry | staleExpiry
  | removalExpiry | triggerTimeout | lineValidRise =>
    refine nextHas ?_
    (repeat' split) <;> simp
  | lineCompletion =>
    refine nextHas_ite ⟨rfl, rfl⟩ fun _ => ?_
    simp only
    (repeat' split) <;> simp

theorem assemblyTimeout_sound {k : Fin 32} {s : State} (h : Sound s) : NextHas Sound (execAssemblyTimeout k s) := by
  refine nextHas_ite h fun _ => ?_
  split
  next a t hk _ => exact SoundBut.breakContext h (h.continues hk).blocks
  next => exact h

/-- A take moves on within the head record, or at its last word releases it (R165, R166). -/
theorem dlvTake_sound {s : State} (h : Sound s) : NextHas Sound (execDlvTake s) := by
  refine nextHas_ite h fun hactive => ?_
  split
  next hready =>
    split
    next => exact release_sound h
    next hnotlast =>
      refine { h with position := ?_ }
      have hposition := h.position
      cases hq : s.take.queue with
      | nil => simp [dlvReady, hq] at hready
      | cons r rest =>
        rw [hq] at hposition
        simp only [dlvLast, hactive, hq, beq_iff_eq] at hnotlast
        exact Nat.lt_of_le_of_ne hposition hnotlast
  next => exact h

/-- Every block is free after a station restart (R162). -/
theorem stationRestart_sound {straps : Station} {o : OpenParcel} {s : State} (h : Sound s) : Sound (stationRestart straps o s) where
  blocks := by simp [stationRestart, takeRestart, blocksOf, contextBlocks]
  streams j k a b hj := nomatch (replicate_get none j).symm.trans hj
  inPart k a hk := nomatch (replicate_get none k).symm.trans hk
  position := rfl
  canonical := by simpa [stationRestart, takeRestart] using h.canonical

theorem restart_sound {arg : BitVec 12} {straps : Station} {o : OpenParcel} {s : State} (h : Sound s) :
    NextHas Sound (execRestart arg straps o s) := by
  unfold execRestart
  simp only
  split
  · exact nextHas h
  · exact nextHas (stationRestart_sound (straps := straps) (s := frame 10 arg s) h)

theorem poweredOn_sound (e : Vector Word16 128) (straps : Station) (a b l : Bool) (levels : Cam → Bool) (hold : Bool) (n : Nat)
    (q : List Instr) : Sound (State.poweredOn e straps a b l levels hold n q) where
  blocks := .of_eq ((List.append_nil _).trans blocksOf_reset)
  streams j _ _ _ hj := nomatch (contexts_reset j).symm.trans hj
  inPart k _ hk := nomatch (contexts_reset k).symm.trans hk
  position := rfl
  canonical := Memory.wf_empty

/-- Every command keeps the take-off unit sound. -/
theorem exec_sound (c : Instr) {s : State} (h : Sound s) : NextHas Sound (exec c s) := by
  cases hc : touchesTakeOff c with
  | false => exact (exec_takeOff s hc).mono fun _ => sound_of_takeOff h
  | true =>
    cases c with
    | powerOnReset => exact nextHas (poweredOn_sound _ _ _ _ _ _ _ _ _)
    | parcelArrival => exact nextHas_ite h fun _ => processArrival_sound h
    | assemblyTimeout => exact assemblyTimeout_sound h
    | dlvTake => exact dlvTake_sound h
    | dlvCut =>
      exact nextHas_ite h fun _ =>
        release_sound (s := { s with dlv := { s.dlv with recordsCut := satInc s.dlv.recordsCut } }) h
    | clear => exact nextHas { h with }
    | restart => exact restart_sound h
    | _ => cases hc

theorem idleStep_takeOff (s : State) : (idleStep s).take = s.take ∧ (idleStep s).dlv.position = s.dlv.position := by
  unfold idleStep
  split
  · unfold tick readOn
    split <;> exact ⟨rfl, rfl⟩
  all_goals exact ⟨rfl, rfl⟩

/-- Settles O56: every command and the idle step keep the take-off unit and the word position sound. -/
theorem stepsKeepTheTakeOffUnit : Obligations.StepsKeepTheTakeOffUnit := by
  rw [Obligations.StepsKeepTheTakeOffUnit, funext fun s => propext (sound_iff s)]
  exact kept_of_exec (fun _ _ h => h) (fun s h => sound_of_takeOff h (idleStep_takeOff s)) fun c _ => exec_sound c

end Sys2Proof.TakeOff
end

section
/-! LINE offers at the take-off unit: the filters and tests, the segments that are placed (O22) and those that are not (O23); and
the lines that are broken (O24). -/
namespace Sys2Proof.TakeOff
open Sys2Proof.Machine Sys2Proof.Safety Sys2Proof.FibreRing

/-! ### Streams, filters and consistency (R146, R147) -/

theorem streamOf_toNat {g : Segment} (h : g.camera ≤ 3) : (streamOf g).toNat = g.source.val * 4 + g.camera := by
  have hsource := g.source.isLt
  rw [streamOf, BitVec.toNat_ofNat, Nat.mod_eq_of_lt (by omega)]

/-- The tests of R147, with the payload length by the depth. -/
theorem consistent_iff (g : Segment) : consistent g = true ↔ g.camera ≤ 3 ∧ 1 ≤ g.count ∧ g.count ≤ 16 ∧ g.index < g.count
    ∧ ((g.depth = 8 ∧ g.payload.length = g.pixels) ∨ (g.depth = 16 ∧ g.payload.length = 2 * g.pixels))
    ∧ (g.index + 1 < g.count → g.payload.length = 2048) := by
  have hlength : ((g.depth = 8 ∨ g.depth = 16) ∧ g.payload.length = if g.depth = 16 then 2 * g.pixels else g.pixels) ↔
      (g.depth = 8 ∧ g.payload.length = g.pixels) ∨ (g.depth = 16 ∧ g.payload.length = 2 * g.pixels) := by
    split
    next hdeep => simp [hdeep]
    next hdeep => simp [hdeep]
  rw [consistent, decide_eq_true_iff, ← hlength, and_assoc]
  rfl

/-- Two stream ids agree under a mask where no bit of the mask tells them apart. -/
theorem masked_eq_zero_iff (x v m : BitVec 6) :
    (x ^^^ v) &&& m = 0 ↔ ∀ b : Fin 6, m.getLsbD b.val = true → x.getLsbD b.val = v.getLsbD b.val := by
  constructor
  · intro h b hmask
    have hbit := congrArg (BitVec.getLsbD · b.val) h
    simp only [BitVec.getLsbD_and, BitVec.getLsbD_xor, hmask, Bool.and_true] at hbit
    simpa using hbit
  · intro h
    refine BitVec.eq_of_getLsbD_eq fun i hi => ?_
    have hbit := h ⟨i, hi⟩
    cases hmask : m.getLsbD i with
    | false => simp [hmask]
    | true => simp [hmask, hbit hmask]

theorem matches_iff (f : Filter) (x : BitVec 6) :
    f.matches x = true ↔ f.enabled = true ∧ (x ^^^ f.value) &&& f.mask = 0 := by
  rw [Filter.matches, Bool.and_eq_true, beq_iff_eq]

theorem filterHit_eq_some_iff {t : Settings} {x : BitVec 6} {hit : Fin 8} :
    filterHit t x = some hit ↔ t.filters[hit].matches x = true ∧ ∀ j < hit, ¬ t.filters[j].matches x = true := by
  simp only [filterHit, ← Fin.find?_eq_find?_finRange, Fin.find?_eq_some_iff, Bool.not_eq_true]

theorem filterHit_eq_none_iff {t : Settings} {x : BitVec 6} :
    filterHit t x = none ↔ ∀ j : Fin 8, ¬ t.filters[j].matches x = true := by
  simp only [filterHit, ← Fin.find?_eq_find?_finRange, Fin.find?_eq_none_iff, Bool.not_eq_true]

/-! ### Placed segments (R148, R149) -/

theorem contextOf_of_oneContext {s : State} {k : Fin 32} {a : Assembly} (hone : OneContextPerStream s)
    (hk : s.take.contexts[k] = some a) : contextOf s.take a.stream = some (k, a) :=
  contextOf_of_alone hk fun j x hj => hone j k x a hj hk

/-- The segment is the next one of the line `a`, which context `k` holds. -/
def GoesOn (g : Segment) (k : Fin 32) (a : Assembly) (s : State) : Prop :=
  s.take.contexts[k] = some a ∧ a.stream = streamOf g ∧ a.serial = g.serial ∧ a.next = g.index

/-- The segment opens the lowest FREE context `k` for the line `a` that it begins. -/
def Opens (hit : Fin 8) (g : Segment) (k : Fin 32) (a : Assembly) (s : State) : Prop :=
  Unassembled s.take (streamOf g) ∧ g.index = 0 ∧ s.ctl.state ≠ .duplicate ∧ s.take.contexts[k] = none
    ∧ (∀ j : Fin 32, j < k → s.take.contexts[j] ≠ none) ∧ a = openedBy s.time hit g

/-- A segment that goes on in a context, or opens one, is placed there. -/
theorem takeSegment_of_place {deliver : Bool} {hit : Fin 8} {g : Segment} {k : Fin 32} {a : Assembly} {s : State}
    (hone : OneContextPerStream s) (hplace : GoesOn g k a s ∨ Opens hit g k a s) :
    takeSegment s.time deliver (s.ctl.state != .duplicate) hit g s.take = placeSegment s.time deliver g k a s.take := by
  rcases hplace with ⟨hk, hstream, hserial, hindex⟩ | ⟨hstream, hindex, hstate, hk, hlowest, rfl⟩
  · exact takeSegment_of_inOrder (hstream ▸ contextOf_of_oneContext hone hk) hserial hindex.symm
  · have hopen : (s.ctl.state != .duplicate) = true := bne_iff_ne.mpr hstate
    rw [takeSegment_of_unassembled hstream, hopen]
    exact withoutContext_of_opening hindex (freeContext_eq_some_iff.mpr ⟨hk, hlowest⟩)

/-- Settles O22: the segment is placed in its context, and the line goes on or is whole. -/
theorem segmentsArePlaced : Obligations.SegmentsArePlaced := by
  rintro p g t hit k a b rest s rfl ht htake hruns hcamera hhit hcons hone hfree hplace
  refine ⟨placeSegment s.time t.deliverBroken (segmentOf p) k a s.take, ?_, fun x hx => ?_, fun i hi => ?_, fun j hj => ?_,
    fun a' ha' => ⟨fun hpart => ?_, fun hwhole => ⟨?_, fun hroom => ?_, fun hfull => ?_⟩⟩⟩
  · rw [lineOffer_of_consistent ht htake hruns hcamera hhit hcons, takeSegment_of_place hone hplace]
  · rw [placeSegment_store hfree]
    exact Memory.read_write_other _ _ _ _ hx
  · rw [placeSegment_store hfree]
    exact Memory.read_write_same _ _ _ _ hi
  · rw [placeSegment_contexts hfree]
    exact put_other _ _ _ _ hj.symm
  · rw [placeSegment_of_part hfree hpart, ha']
    exact ⟨rfl, put_self _ _ _⟩
  · rw [placeSegment_contexts hfree, if_pos hwhole]
    exact put_self _ _ _
  · rw [placeSegment_of_whole hfree hwhole, ha', appendRecord_of_room (u := wholeAt k _ b rest s.take) hroom]
    rfl
  · rw [placeSegment_of_whole hfree hwhole, appendRecord_of_full (u := wholeAt k _ b rest s.take) hfull]
    rfl

/-! ### Segments that are not placed (R147 to R152, R154) -/

/-- A consistent matched segment of a stream with no context (R148, R150, R152): an orphan, one that finds no context to open, and
one that opens a context and finds the line store full, which leaves that context FREE. -/
theorem offers_without_context {p : List Byte} {s : State} {t : Settings} {hit : Fin 8}
    (hoffer : lineOffer p s = { s with
      take := takeSegment s.time t.deliverBroken (s.ctl.state != .duplicate) hit (segmentOf p) s.take })
    (hstream : Unassembled s.take (streamOf (segmentOf p))) :
    ((segmentOf p).index ≠ 0 →
      lineOffer p s = { s with take := { s.take with orphanSegments := satInc s.take.orphanSegments } })
    ∧ ((segmentOf p).index = 0 → (s.ctl.state = .duplicate ∨ ∀ j : Fin 32, s.take.contexts[j] ≠ none) →
      lineOffer p s = { s with take := { s.take with noContext := satInc s.take.noContext } })
    ∧ ((segmentOf p).index = 0 → s.ctl.state ≠ .duplicate → (∃ j : Fin 32, s.take.contexts[j] = none) → s.take.free = [] →
      lineOffer p s = { s with take := { s.take with
        storeFull := satInc s.take.storeFull, brokenLines := satInc s.take.brokenLines } }) := by
  rw [hoffer, takeSegment_of_unassembled hstream]
  refine ⟨fun hindex => ?_, fun hindex hnone => ?_, fun hindex hstate hfree hfull => ?_⟩
  · rw [withoutContext_of_orphan hindex]
  · rw [withoutContext_of_noContext hindex]
    exact hnone.imp (fun hstate => by rw [hstate]; rfl) freeContext_eq_none_iff.mpr
  · have hopen : (s.ctl.state != .duplicate) = true := bne_iff_ne.mpr hstate
    obtain ⟨k, hk⟩ : ∃ k, freeContext s.take = some k := by
      rw [← Option.ne_none_iff_exists', Ne, freeContext_eq_none_iff]
      obtain ⟨j, hj⟩ := hfree
      exact fun hnone => hnone j hj
    have hfreed : put s.take.contexts k none = s.take.contexts := put_eq_self (freeContext_eq_some_iff.mp hk).1
    rw [hopen, withoutContext_of_opening hindex hk, placeSegment_of_full hfull, breakContext_of_discard (.inr rfl)]
    simp [brokenAt, openedBy, hfreed]

/-- A consistent matched segment that breaks the context of its stream (R150 to R152): out of order, at a full line store, or of
another line, which is then taken as with no context. -/
theorem offers_that_break {p : List Byte} {s : State} {t : Settings} {hit : Fin 8} {k : Fin 32} {a : Assembly}
    (hoffer : ∀ v : State, v.ctl = s.ctl → v.store = s.store → lineOffer p v = { v with
      take := takeSegment v.time t.deliverBroken (v.ctl.state != .duplicate) hit (segmentOf p) v.take })
    (hone : OneContextPerStream s) (hk : s.take.contexts[k] = some a) (hstream : a.stream = streamOf (segmentOf p)) :
    (a.serial = (segmentOf p).serial → (segmentOf p).index ≠ a.next →
      lineOffer p s = { s with take := breakContext s.time t.deliverBroken k a s.take })
    ∧ (a.serial = (segmentOf p).serial → (segmentOf p).index = a.next → s.take.free = [] →
      lineOffer p s = { s with
        take := breakContext s.time t.deliverBroken k a { s.take with storeFull := satInc s.take.storeFull } })
    ∧ (a.serial ≠ (segmentOf p).serial → (segmentOf p).index ≠ 0 → lineOffer p s = { s with
        take := { breakContext s.time t.deliverBroken k a s.take with
                  orphanSegments := satInc s.take.orphanSegments } })
    ∧ (a.serial ≠ (segmentOf p).serial → (segmentOf p).index = 0 →
      lineOffer p s = lineOffer p { s with take := breakContext s.time t.deliverBroken k a s.take }) := by
  have hfound : contextOf s.take (streamOf (segmentOf p)) = some (k, a) := hstream ▸ contextOf_of_oneContext hone hk
  have hbroken : Unassembled (breakContext s.time t.deliverBroken k a s.take) (streamOf (segmentOf p)) :=
    unassembled_breakContext (hstream ▸ fun j x hj => hone j k x a hj hk)
  refine ⟨fun hserial hindex => ?_, fun hserial hindex hfull => ?_, fun hserial hindex => ?_, fun hserial hindex => ?_⟩
  · rw [hoffer s rfl rfl, takeSegment_of_gap hfound hserial hindex]
  · rw [hoffer s rfl rfl, takeSegment_of_inOrder hfound hserial hindex, placeSegment_of_full hfull]
  · rw [hoffer s rfl rfl, takeSegment_of_otherLine hfound hserial, withoutContext_of_orphan hindex,
      breakContext_orphanSegments]
  · rw [hoffer s rfl rfl, hoffer { s with take := breakContext s.time t.deliverBroken k a s.take } rfl rfl,
      takeSegment_of_otherLine hfound hserial, takeSegment_of_unassembled hbroken]

/-- Settles O23: the tests of a segment, the filters, and the offers by what the segment finds. -/
theorem segmentsNotPlaced : Obligations.SegmentsNotPlaced := by
  refine ⟨fun g => ⟨streamOf_toNat, consistent_iff g⟩, fun t x hit matching hmatching => ?_, ?_⟩
  · have hfilter (j : Fin 8) : matching j ↔ t.filters[j].matches x = true := by
      rw [hmatching j, matches_iff, masked_eq_zero_iff]
    simp only [hfilter]
    exact ⟨filterHit_eq_some_iff, filterHit_eq_none_iff⟩
  · rintro p g s rfl
    refine ⟨lineOffer_of_off, fun t ht htake hruns => ⟨lineOffer_of_noStream ht htake hruns, fun hcamera hmiss => ?_,
      fun hit hcamera hhit => ⟨fun hcons => ?_, fun hcons hstream => ?_, fun hcons hone k a hk hstream => ?_⟩⟩⟩
    · refine lineOffer_of_noHit ht htake hruns hcamera (filterHit_eq_none_iff.mpr fun j hj => ?_)
      obtain ⟨henabled, hzero⟩ := (matches_iff _ _).mp hj
      exact hmiss j henabled hzero
    · rw [lineOffer_of_hit ht htake hruns hcamera hhit, testSegment, if_neg (by simp [hcons])]
    · exact offers_without_context (lineOffer_of_consistent ht htake hruns hcamera hhit hcons) hstream
    · refine offers_that_break (hit := hit) (fun v hctl hstore => ?_) hone hk hstream
      exact lineOffer_of_consistent (hstore ▸ ht) htake (hctl ▸ hruns) hcamera hhit hcons

/-! ### Broken lines (R153, R154, R156) -/

theorem assemblyDue_of_free {s : State} {k : Fin 32}
    (h : s.take.contexts[k] = none ∨ s.ctl.state.runs = false ∨ s.takeOffEnabled = false) : assemblyDue s k = false := by
  rw [← Bool.not_eq_true, assemblyDue_iff]
  rintro ⟨a, hk, hruns, htake, -⟩
  rcases h with h | h | h
  · cases h.symm.trans hk
  · exact Bool.false_ne_true (h.symm.trans hruns)
  · exact Bool.false_ne_true (h.symm.trans htake)

theorem exec_assemblyTimeout_of_notDue {s : State} {k : Fin 32} (h : assemblyDue s k = false) :
    exec (.assemblyTimeout k) s = .next s := congrArg _ (if_neg (by simp [h]))

theorem exec_assemblyTimeout_of_due {s : State} {k : Fin 32} {a : Assembly} {t : Settings} (h : assemblyDue s k = true)
    (hk : s.take.contexts[k] = some a) (ht : s.store.settings = some t) :
    exec (.assemblyTimeout k) s = .next { s with take := breakContext s.time t.deliverBroken k a s.take } := by
  show execAssemblyTimeout k s = _
  rw [execAssemblyTimeout, if_pos h, hk, ht]
  rfl

/-- Settles O24: the timeout by whether it has fallen, the broken context by what becomes of its blocks, and the record. -/
theorem linesAreBroken : Obligations.LinesAreBroken := by
  refine ⟨fun k a t s hk ht => ⟨fun hruns htake hover => ?_, fun hearly => ?_⟩, fun k s h => ?_, fun now k a u =>
    ⟨breakContext_of_discard (.inl rfl), fun hnone => breakContext_of_discard (.inr hnone), fun hheld hroom => ?_,
      fun hheld hfull => ?_, fun broken => ?_⟩⟩
  · have henabled : s.takeOffEnabled = true := by rw [State.takeOffEnabled, ht]; exact htake
    exact exec_assemblyTimeout_of_due ((assemblyDue_iff s k).mpr ⟨a, hk, hruns, henabled, hover⟩) hk ht
  · refine exec_assemblyTimeout_of_notDue ?_
    rw [← Bool.not_eq_true, assemblyDue_iff]
    rintro ⟨x, hx, -, -, hover⟩
    cases hk.symm.trans hx
    exact absurd hover (Nat.not_le.mpr hearly)
  · exact exec_assemblyTimeout_of_notDue (assemblyDue_of_free h)
  · rw [breakContext_of_deliver hheld, appendRecord_of_room (u := brokenAt k u) hroom]
    rfl
  · rw [breakContext_of_deliver hheld, appendRecord_of_full (u := brokenAt k u) hfull]
    rfl
  · cases broken with
    | false => simp [recordOf, flagIf]
    | true => rfl

end Sys2Proof.TakeOff
end

section
/-! The delivery port: what its outputs show, what its requests do (O25), and the words of the record it presents (O26). -/
namespace Sys2Proof.Delivery
open Sys2Proof.Machine

/-! ### Outputs (R163, Table 10.2) -/

theorem dlvReady_iff (s : State) :
    dlvReady s = true ↔ s.dlv.active = true ∧ s.take.queue ≠ [] ∧ s.dlv.holdPin = false := by
  simp only [dlvReady, Bool.and_eq_true, Bool.not_eq_true', List.isEmpty_eq_false_iff, and_assoc]

/-- With no record, or at an inactive port, the data lines and DLV_LAST are low. -/
theorem outputs_of_noHead {s : State} (h : s.dlv.active = false ∨ s.take.queue = []) : dlvData s = 0 ∧ dlvLast s = false := by
  unfold dlvData dlvLast
  rcases h with hoff | hempty
  · rw [hoff]
    exact ⟨rfl, rfl⟩
  · rw [hempty]
    cases s.dlv.active <;> exact ⟨rfl, rfl⟩

section Head
variable {s : State} {r : DeliveryRecord} {rest : List DeliveryRecord} (hactive : s.dlv.active = true)
  (hqueue : s.take.queue = r :: rest)
include hactive hqueue

theorem dlvData_of_head : dlvData s = recordWord s.take.store r s.dlv.position := by
  rw [dlvData, hactive, hqueue]

theorem dlvLast_iff_of_head : dlvLast s = true ↔ s.dlv.position + 1 = wordCount r := by
  rw [dlvLast, hactive, hqueue]
  exact beq_iff_eq

theorem dlvReady_of_head (hhold : s.dlv.holdPin = false) : dlvReady s = true :=
  (dlvReady_iff s).mpr ⟨hactive, by simp [hqueue], hhold⟩

end Head

theorem not_dlvReady {s : State} (h : s.take.queue = [] ∨ s.dlv.holdPin = true) : ¬ dlvReady s = true := by
  rw [dlvReady_iff]
  rintro ⟨-, hheld, hlow⟩
  rcases h with hempty | hhigh
  · exact hheld hempty
  · exact Bool.false_ne_true (hlow.symm.trans hhigh)

/-! ### Releases, takes and cuts (R165 to R167) -/

/-- The state with its head record `r` released, `rest` behind it (R166). -/
theorem release_of_head {s : State} {r : DeliveryRecord} {rest : List DeliveryRecord} (h : s.take.queue = r :: rest) :
    release s = { s with
      take := { s.take with queue := rest, free := s.take.free ++ r.blocks }, dlv := { s.dlv with position := 0 } } := by
  rw [release, releaseHead, h]

theorem exec_dlvTake_of_inactive {s : State} (h : s.dlv.active = false) : exec .dlvTake s = .next s :=
  congrArg _ (if_neg (by simp [h]))

theorem exec_dlvTake_of_notReady {s : State} (hactive : s.dlv.active = true) (h : ¬ dlvReady s = true) :
    exec .dlvTake s = .next { s with dlv := { s.dlv with takesIgnored := satInc s.dlv.takesIgnored } } :=
  congrArg _ ((if_pos hactive).trans (if_neg h))

theorem exec_dlvTake_of_ready {s : State} (hactive : s.dlv.active = true) (h : dlvReady s = true) :
    exec .dlvTake s = .next
      (if dlvLast s then release s else { s with dlv := { s.dlv with position := s.dlv.position + 1 } }) :=
  congrArg _ ((if_pos hactive).trans (if_pos h))

theorem exec_dlvCut_of_noHead {s : State} (h : s.dlv.active = false ∨ s.take.queue = []) : exec .dlvCut s = .next s := by
  refine congrArg _ (if_neg ?_)
  rcases h with hoff | hempty
  · simp [hoff]
  · simp [hempty]

theorem exec_dlvCut_of_head {s : State} {r : DeliveryRecord} {rest : List DeliveryRecord} (hactive : s.dlv.active = true)
    (hqueue : s.take.queue = r :: rest) :
    exec .dlvCut s = .next (release { s with dlv := { s.dlv with recordsCut := satInc s.dlv.recordsCut } }) :=
  congrArg _ (if_pos (by simp [hactive, hqueue]))

/-- Settles O25: a request at an inactive port and at one with no record, then the take by whether the word is the last, the cut and
the hold. -/
theorem deliveryPortRequests : Obligations.DeliveryPortRequests := by
  intro s
  refine ⟨fun hoff => ⟨exec_dlvTake_of_inactive hoff, exec_dlvCut_of_noHead (.inl hoff)⟩,
    fun hactive hlow => exec_dlvTake_of_notReady hactive (not_dlvReady hlow), fun _ hempty => exec_dlvCut_of_noHead (.inr hempty),
    fun r rest hactive hqueue => ⟨fun hhold hmore => ?_, fun hhold hlast => ?_, ?_⟩, fun level => rfl⟩
  · rw [exec_dlvTake_of_ready hactive (dlvReady_of_head hactive hqueue hhold),
      if_neg (mt (dlvLast_iff_of_head hactive hqueue).mp hmore)]
  · rw [exec_dlvTake_of_ready hactive (dlvReady_of_head hactive hqueue hhold),
      if_pos ((dlvLast_iff_of_head hactive hqueue).mpr hlast), release_of_head hqueue]
  · rw [exec_dlvCut_of_head hactive hqueue]
    exact congrArg _ (release_of_head hqueue)

/-! ### Fields of a word -/

/-- The bits of a field of a 64-bit word, as a number. -/
theorem word_field {a n : Nat} (x : Nat) (h : a + n ≤ 64) :
    ((BitVec.ofNat 64 x).extractLsb' a n).toNat = x / 2 ^ a % 2 ^ n := by
  have hsplit : (2 : Nat) ^ 64 = 2 ^ a * 2 ^ (64 - a) := by rw [← Nat.pow_add, Nat.add_sub_cancel' (by omega)]
  have hwithin : 2 ^ n ∣ 2 ^ (64 - a) := Nat.pow_dvd_pow 2 (by omega)
  rw [BitVec.extractLsb'_toNat, BitVec.toNat_ofNat, Nat.shiftRight_eq_div_pow, hsplit, Nat.mod_mul_right_div_self,
    Nat.mod_mod_of_dvd _ hwithin]

theorem word_field_eq {a n x : Nat} {c : BitVec n} (h : a + n ≤ 64) (hx : x / 2 ^ a % 2 ^ n = c.toNat) :
    (BitVec.ofNat 64 x).extractLsb' a n = c :=
  BitVec.eq_of_toNat_eq ((word_field x h).trans hx)

theorem word_field_eq_zero {a n x : Nat} (h : a + n ≤ 64) (hx : x / 2 ^ a % 2 ^ n = 0) :
    (BitVec.ofNat 64 x).extractLsb' a n = 0 :=
  word_field_eq h (hx.trans BitVec.toNat_zero.symm)

theorem word_field_toNat {a n : Nat} {x v : Nat} (h : a + n ≤ 64) (hx : x / 2 ^ a % 2 ^ n = v) :
    ((BitVec.ofNat 64 x).extractLsb' a n).toNat = v :=
  (word_field x h).trans hx

/-! ### Header words (Table 12.5) -/

theorem recordWord_zero (m : Memory) (r : DeliveryRecord) : recordWord m r 0 = BitVec.ofNat 64
    (r.stream.toNat + 2 ^ 8 * r.hit.val + 2 ^ 16 * r.flags.toNat + 2 ^ 32 * r.present + 2 ^ 40 * r.segCount) := rfl

theorem recordWord_one (m : Memory) (r : DeliveryRecord) :
    recordWord m r 1 = BitVec.ofNat 64 (r.serial.toNat + 2 ^ 32 * r.coil.toNat + 2 ^ 48 * r.depth) := rfl

theorem recordWord_two (m : Memory) (r : DeliveryRecord) :
    recordWord m r 2 = BitVec.ofNat 64 (r.nominal.toNat + 2 ^ 32 * r.pixels + 2 ^ 48 * r.clips.toNat) := rfl

theorem recordWord_three (m : Memory) (r : DeliveryRecord) :
    recordWord m r 3 = BitVec.ofNat 64 (r.completed.toNat + 2 ^ 32 * r.thinnedSince.toNat) := rfl

theorem recordWord_zero_layout (m : Memory) {r : DeliveryRecord} (hpresent : r.present ≤ 16) (hcount : r.segCount ≤ 16) :
    (recordWord m r 0).extractLsb' 0 6 = r.stream ∧ ((recordWord m r 0).extractLsb' 8 3).toNat = r.hit.val
      ∧ (recordWord m r 0).extractLsb' 16 16 = r.flags ∧ ((recordWord m r 0).extractLsb' 32 5).toNat = r.present
      ∧ ((recordWord m r 0).extractLsb' 40 5).toNat = r.segCount
      ∧ (recordWord m r 0).extractLsb' 6 2 = 0 ∧ (recordWord m r 0).extractLsb' 11 5 = 0
      ∧ (recordWord m r 0).extractLsb' 37 3 = 0 ∧ (recordWord m r 0).extractLsb' 45 19 = 0 := by
  rw [recordWord_zero]
  have hstream := r.stream.isLt
  have hhit := r.hit.isLt
  have hflags := r.flags.isLt
  refine ⟨word_field_eq ?_ ?_, word_field_toNat ?_ ?_, word_field_eq ?_ ?_, word_field_toNat ?_ ?_, word_field_toNat ?_ ?_,
    word_field_eq_zero ?_ ?_, word_field_eq_zero ?_ ?_, word_field_eq_zero ?_ ?_, word_field_eq_zero ?_ ?_⟩
  all_goals omega

theorem recordWord_one_layout (m : Memory) {r : DeliveryRecord} (hdepth : r.depth ≤ 16) :
    (recordWord m r 1).extractLsb' 0 32 = r.serial ∧ (recordWord m r 1).extractLsb' 32 16 = r.coil
      ∧ ((recordWord m r 1).extractLsb' 48 8).toNat = r.depth ∧ (recordWord m r 1).extractLsb' 56 8 = 0 := by
  rw [recordWord_one]
  have hserial := r.serial.isLt
  have hcoil := r.coil.isLt
  refine ⟨word_field_eq ?_ ?_, word_field_eq ?_ ?_, word_field_toNat ?_ ?_, word_field_eq_zero ?_ ?_⟩
  all_goals omega

theorem recordWord_two_layout (m : Memory) {r : DeliveryRecord} (hpixels : r.pixels ≤ 16384) :
    (recordWord m r 2).extractLsb' 0 32 = r.nominal ∧ ((recordWord m r 2).extractLsb' 32 16).toNat = r.pixels
      ∧ (recordWord m r 2).extractLsb' 48 16 = r.clips := by
  rw [recordWord_two]
  have hnominal := r.nominal.isLt
  have hclips := r.clips.isLt
  refine ⟨word_field_eq ?_ ?_, word_field_toNat ?_ ?_, word_field_eq ?_ ?_⟩
  all_goals omega

theorem recordWord_three_layout (m : Memory) (r : DeliveryRecord) :
    (recordWord m r 3).extractLsb' 0 32 = r.completed ∧ (recordWord m r 3).extractLsb' 32 8 = r.thinnedSince
      ∧ (recordWord m r 3).extractLsb' 40 24 = 0 := by
  rw [recordWord_three]
  have hcompleted := r.completed.isLt
  have hthinned := r.thinnedSince.isLt
  refine ⟨word_field_eq ?_ ?_, word_field_eq ?_ ?_, word_field_eq_zero ?_ ?_⟩
  all_goals omega

/-! ### Pixels in the line store (R164) -/

theorem recordByte_of_block {m : Memory} {r : DeliveryRecord} {n : Nat} {b : Block} (h : r.blocks[n / 2048]? = some b) :
    recordByte m r n = m.read (b.val * 2048 + n % 2048) := by
  rw [recordByte, Config.blockBytes, h]
  rfl

theorem recordPixel_of_shallow {m : Memory} {r : DeliveryRecord} {n : Nat} (h : r.depth = 8) :
    recordPixel m r n = (recordByte m r n).toNat := if_neg (by omega)

theorem recordPixel_of_deep {m : Memory} {r : DeliveryRecord} {n : Nat} (h : r.depth = 16) :
    recordPixel m r n = (recordByte m r (2 * n)).toNat * 256 + (recordByte m r (2 * n + 1)).toNat := if_pos h

/-- The two bytes of a pixel at depth 16 lie in one block, since a block holds an even number of bytes. -/
theorem recordPixel_of_deep_block {m : Memory} {r : DeliveryRecord} {n : Nat} {b : Block} (hdepth : r.depth = 16)
    (h : r.blocks[2 * n / 2048]? = some b) :
    recordPixel m r n = (m.read (b.val * 2048 + 2 * n % 2048)).toNat * 256
      + (m.read (b.val * 2048 + 2 * n % 2048 + 1)).toNat := by
  have hblock : (2 * n + 1) / 2048 = 2 * n / 2048 := by omega
  have hoffset : (2 * n + 1) % 2048 = 2 * n % 2048 + 1 := by omega
  rw [recordPixel_of_deep hdepth, recordByte_of_block h, recordByte_of_block (hblock ▸ h), hoffset, Nat.add_assoc]

theorem recordPixel_lt_of_shallow (m : Memory) {r : DeliveryRecord} (h : r.depth = 8) (n : Nat) : recordPixel m r n < 2 ^ 8 := by
  rw [recordPixel_of_shallow h]
  exact (recordByte m r n).isLt

theorem recordPixel_lt_of_deep (m : Memory) {r : DeliveryRecord} (h : r.depth = 16) (n : Nat) : recordPixel m r n < 2 ^ 16 := by
  have hhigh := (recordByte m r (2 * n)).isLt
  have hlow := (recordByte m r (2 * n + 1)).isLt
  rw [recordPixel_of_deep h]
  omega

/-! ### Pixel words (R164) -/

/-- Lane `l` of the lanes from pixel `n` on holds pixel `n + l`, or 0 beyond the last pixel. -/
theorem lanes_get {m : Memory} {r : DeliveryRecord} {w : Nat} (hfit : ∀ i, recordPixel m r i < 2 ^ w) {k l : Nat} (h : l < k)
    (n : Nat) :
    lanes m r w k n / 2 ^ (w * l) % 2 ^ w = if n + l < r.pixels then recordPixel m r (n + l) else 0 := by
  have hlane (i : Nat) : (if i < r.pixels then recordPixel m r i else 0) < 2 ^ w := by
    split
    next => exact hfit i
    next => exact Nat.two_pow_pos w
  induction k generalizing l n with
  | zero => exact absurd h (Nat.not_lt_zero l)
  | succ k ih =>
    rw [lanes]
    cases l with
    | zero => rw [Nat.mul_zero, Nat.pow_zero, Nat.div_one, Nat.add_mul_mod_self_left, Nat.mod_eq_of_lt (hlane n), Nat.add_zero]
    | succ l =>
      rw [Nat.mul_succ, Nat.add_comm (w * l) w, Nat.pow_add, ← Nat.div_div_eq_div_mul,
        Nat.add_mul_div_left _ _ (Nat.two_pow_pos w), Nat.div_eq_of_lt (hlane n), Nat.zero_add, ih (Nat.lt_of_succ_lt_succ h),
        Nat.add_assoc, Nat.add_comm 1 l]

theorem recordWord_pixels (m : Memory) (r : DeliveryRecord) (j : Nat) : recordWord m r (4 + j) =
    BitVec.ofNat 64 (if r.depth = 16 then lanes m r 16 4 (4 * j) else lanes m r 8 8 (8 * j)) := by
  rw [Nat.add_comm]
  rfl

/-- Settles O26: the outputs, the word count, the header words, the pixels in the line store and their lanes. -/
theorem deliveryPortWords : Obligations.DeliveryPortWords := by
  refine ⟨fun s => ⟨dlvReady_iff s, outputs_of_noHead, fun r rest hactive hqueue =>
      ⟨dlvData_of_head hactive hqueue, dlvLast_iff_of_head hactive hqueue⟩⟩,
    fun r => ⟨fun hdepth => if_neg (by omega), fun hdepth => if_pos hdepth⟩,
    fun m r hpresent hcount hdepth hpixels => ?_, fun m r n b hdepth hblock => ?_,
    fun m r n b => recordPixel_of_deep_block, fun m r j l hdepth => ?_, fun m r j l hdepth => ?_⟩
  · obtain ⟨hstream, hhit, hflags, hheld, hsegments, hgap6, hgap11, hgap37, hgap45⟩ :=
      recordWord_zero_layout m hpresent hcount
    obtain ⟨hserial, hcoil, hbits, hgap56⟩ := recordWord_one_layout m hdepth
    obtain ⟨hnominal, hlength, hclips⟩ := recordWord_two_layout m hpixels
    obtain ⟨hcompleted, hthinned, hgap40⟩ := recordWord_three_layout m r
    exact ⟨hstream, hhit, hflags, hheld, hsegments, hserial, hcoil, hbits, hnominal, hlength, hclips, hcompleted, hthinned, hgap6,
      hgap11, hgap37, hgap45, hgap56, hgap40⟩
  · rw [recordPixel_of_shallow hdepth, recordByte_of_block hblock]
  · have hl := l.isLt
    rw [recordWord_pixels, if_neg (by omega), word_field _ (by omega), lanes_get (recordPixel_lt_of_shallow m hdepth) hl]
  · have hl := l.isLt
    rw [recordWord_pixels, if_pos hdepth, word_field _ (by omega), lanes_get (recordPixel_lt_of_deep m hdepth) hl]

end Sys2Proof.Delivery
end

section
/-! Words and status replies of the service line (Section 12.3), CLEAR (O7), and a station restart block by block (O6). -/
namespace Sys2Proof.Service
open Sys2Proof.Machine

/-! ### Fields of a word -/

/-- The bits of a field of a word made from a number, as a number. -/
theorem ofNat_field_toNat {w a n : Nat} (x : Nat) (h : a + n ≤ w) :
    ((BitVec.ofNat w x).extractLsb' a n).toNat = x / 2 ^ a % 2 ^ n := by
  have hsplit : (2 : Nat) ^ w = 2 ^ a * 2 ^ (w - a) := by rw [← Nat.pow_add, Nat.add_sub_cancel' (by omega)]
  have hwithin : 2 ^ n ∣ 2 ^ (w - a) := Nat.pow_dvd_pow 2 (by omega)
  rw [BitVec.extractLsb'_toNat, BitVec.toNat_ofNat, Nat.shiftRight_eq_div_pow, hsplit, Nat.mod_mul_right_div_self,
    Nat.mod_mod_of_dvd _ hwithin]

theorem ofNat_field {w a n x : Nat} {c : BitVec n} (h : a + n ≤ w) (hx : x / 2 ^ a % 2 ^ n = c.toNat) :
    (BitVec.ofNat w x).extractLsb' a n = c :=
  BitVec.eq_of_toNat_eq ((ofNat_field_toNat x h).trans hx)

theorem ofNat_field_nat {w a n x v : Nat} (h : a + n ≤ w) (hx : x / 2 ^ a % 2 ^ n = v) :
    ((BitVec.ofNat w x).extractLsb' a n).toNat = v :=
  (ofNat_field_toNat x h).trans hx

theorem ofNat_field_zero {w a n x : Nat} (h : a + n ≤ w) (hx : x / 2 ^ a % 2 ^ n = 0) :
    (BitVec.ofNat w x).extractLsb' a n = 0 :=
  ofNat_field h (hx.trans BitVec.toNat_zero.symm)

theorem ofNat_toNat_lt {w x m : Nat} (h : x < m) : (BitVec.ofNat w x).toNat < m := by
  rw [BitVec.toNat_ofNat]
  exact Nat.lt_of_le_of_lt (Nat.mod_le x _) h

theorem lowField_toNat {w n : Nat} (x : BitVec w) : (x.extractLsb' 0 n).toNat = x.toNat % 2 ^ n := by
  rw [BitVec.extractLsb'_toNat, Nat.shiftRight_zero]

/-- A bit of a word made from a number. -/
theorem ofNat_bit {w i x : Nat} {b : Bool} (h : i < w) (hx : x / 2 ^ i % 2 = b.toNat) : (BitVec.ofNat w x).getLsbD i = b := by
  rw [BitVec.getLsbD_ofNat, decide_eq_true h, Bool.true_and, Nat.testBit_eq_decide_div_mod_eq, hx]
  cases b <;> rfl

theorem append_toNat {m n : Nat} (x : BitVec m) (y : BitVec n) : (x ++ y).toNat = x.toNat * 2 ^ n + y.toNat := by
  rw [BitVec.toNat_append, ← Nat.shiftLeft_add_eq_or_of_lt y.isLt, Nat.shiftLeft_eq]

/-- The high half of a 32-bit word. -/
theorem highHalf_eq (w : Word32) : highHalf w = BitVec.ofNat 16 (w.toNat / 2 ^ 16) := by
  refine BitVec.eq_of_toNat_eq ?_
  rw [highHalf, BitVec.extractLsb'_toNat, Nat.shiftRight_eq_div_pow, BitVec.toNat_ofNat]

/-- The low half of a 32-bit word. -/
theorem lowHalf_eq (w : Word32) : lowHalf w = BitVec.ofNat 16 w.toNat := (BitVec.ofNat_toNat 16 w).symm

/-! ### Status replies (R172) -/

theorem resultCode_lt (r : SvcResult) : r.code < 5 := by cases r <;> decide

/-- The fields of a status reply (Section 12.3). -/
theorem statusReply_layout (s : State) (r : SvcResult) :
    ((statusReply s r).extractLsb' 13 3).toNat = r.code ∧ ((statusReply s r).extractLsb' 10 3).toNat = s.ctl.state.code
      ∧ (statusReply s r).getLsbD 9 = s.svc.write.isSome ∧ (statusReply s r).getLsbD 8 = s.svc.holdPending
      ∧ ((statusReply s r).extractLsb' 0 8).toNat = 0 := by
  have hresult := resultCode_lt r
  have hstate := FibreRing.stationCode_lt s.ctl.state
  have hwrite := s.svc.write.isSome.toNat_lt
  have hhold := s.svc.holdPending.toNat_lt
  rw [statusReply]
  refine ⟨ofNat_field_nat ?_ ?_, ofNat_field_nat ?_ ?_, ofNat_bit ?_ ?_, ofNat_bit ?_ ?_, ofNat_field_nat ?_ ?_⟩
  all_goals omega

theorem statusReply_state (s : State) (r : SvcResult) : ((statusReply s r).extractLsb' 10 3).toNat = s.ctl.state.code := by
  obtain ⟨-, hstate, -⟩ := statusReply_layout s r
  exact hstate

/-! ### CLEAR (R177) -/

/-- Settles O7: the counters that CLEAR names, block by block. -/
theorem clearZeroesTheStationCounters : Obligations.ClearZeroesTheStationCounters := fun _ _ => rfl

/-! ### A station restart (R177) -/

/-- The ring port after a restart that began with these registers (R3, R21). -/
def restartedRing (now : Time) (opened : OpenParcel) (r : RingPort) : RingPort :=
  { r with
    link := .dark, reception := none, transit := [], outbound := none, aligning := true, began := now, lastRunEnd := none,
    idleUnits := 0, linkDelay := 0,
    partialDrops := if r.link = .up ∧ (r.reception.isSome = true ∨ opened.isSome = true)
      then satInc r.partialDrops else r.partialDrops }

theorem ringRestart_enterDark (now : Time) (opened : OpenParcel) (s : State) :
    ringRestart now (enterDark opened s).ring = restartedRing now opened s.ring := by
  by_cases h : s.ring.link = .dark
  · simp [FibreRing.enterDark_of_dark h, ringRestart, restartedRing, h]
  · rw [FibreRing.enterDark_of_lit h, FibreRing.linkDark_eq]
    rfl

/-- The restart overwrites what the entry of the link into DARK does to station control (R25, R40). -/
theorem controlRestart_enterDark (straps : Station) (opened : OpenParcel) (s : State) :
    controlRestart straps (enterDark opened s).ctl = controlRestart straps s.ctl := by
  by_cases h : s.ring.link = .dark
  · rw [FibreRing.enterDark_of_dark h]
  · rw [FibreRing.enterDark_of_lit h, FibreRing.linkDark_eq]
    simp only
    (repeat' split) <;> rfl

theorem camRestart_enterDark (opened : OpenParcel) (s : State) : camRestart (enterDark opened s) = camRestart s := by
  obtain ⟨-, -, -, -, -, hcams, -, -, -, -, -, hstore⟩ := enterDark_rest opened s
  funext i
  rw [camRestart, camRestart, SeamsAndCoils.camEnabled_of_store hstore, hcams]

/-- A clock in LOCAL stands at a restart, with its source (R68). -/
theorem stripRestart_eq (u : StripUnit) : stripRestart u = { u with
    table := Vector.replicate 16 .blank, beaconTimer := none, alignStart := none, aligned := false,
    clock := if u.clock = .loc then .loc else .none, followed := if u.clock = .loc then u.followed else none,
    source := if u.clock = .loc then u.source else .none } := by
  unfold stripRestart
  split
  next h => simp [h]
  next h => simp

/-- A station restart block by block, from the state before it. -/
theorem stationRestart_eq (straps : Station) (opened : OpenParcel) (s : State) : stationRestart straps opened s = { s with
    ring := restartedRing s.time opened s.ring, ctl := controlRestart straps s.ctl, strip := stripRestart s.strip,
    seam := seamRestart s.seam, cams := #v[camRestart s 0, camRestart s 1, camRestart s 2, camRestart s 3],
    seg := { s.seg with lines := [], control := [] }, ease := easeRestart s.ease, take := takeRestart s.take,
    dlv := { s.dlv with active := false, position := 0 },
    store := { s.store with readStart := some s.time, imageRead := 0 } } := by
  simp [stationRestart, ringRestart_enterDark, controlRestart_enterDark, camRestart_enterDark]

theorem stationRestart_svc (straps : Station) (opened : OpenParcel) (s : State) :
    (stationRestart straps opened s).svc = s.svc := by
  rw [stationRestart_eq]

/-! ### RESTART (R177) -/

theorem exec_restart_of_busy {s : State} (h : s.svc.write.isSome = true) (arg : BitVec 12) (straps : Station)
    (opened : OpenParcel) : exec (.restart arg straps opened) s =
      .next { s with svc := { s.svc with command := commandWord 10 arg, reply := statusReply s .busy } } :=
  congrArg _ (if_pos h)

theorem exec_restart_of_free {s : State} (h : s.svc.write = none) (arg : BitVec 12) (straps : Station) (opened : OpenParcel) :
    exec (.restart arg straps opened) s = .next (replyStatus .ok (stationRestart straps opened (frame 10 arg s))) :=
  congrArg _ (if_neg (by simp [h]))

/-- Settles O6: refused during a write, and else block by block. -/
theorem restartActsOnEveryBlock : Obligations.RestartActsOnEveryBlock := by
  intro arg straps opened s
  refine ⟨fun hbusy => exec_restart_of_busy hbusy arg straps opened, fun hfree => ?_⟩
  have hrestart := exec_restart_of_free hfree arg straps opened
  rw [stationRestart_eq, stripRestart_eq] at hrestart
  exact ⟨_, hrestart, rfl, rfl, rfl, rfl, rfl, rfl, FibreRing.cams_get (camRestart s), rfl, rfl, rfl, rfl, rfl, rfl,
    statusReply_state _ .ok⟩

end Sys2Proof.Service
end

section
/-! The roll snapshot, which no other command touches (O10), and the settings EEPROM (O11). -/
namespace Sys2Proof.Service
open Sys2Proof.Machine Sys2Proof.StripPosition Sys2Proof.StationRoll

/-! ### ROLL (R174) -/

theorem exec_roll_of_within {arg : BitVec 12} (h : arg.toNat < 16) (s : State) :
    exec (.roll arg) s = .next { s with svc := { s.svc with
      command := commandWord 3 arg, snapshot := s.ctl.roll[arg.toNat], reply := statusReply s .ok } } :=
  congrArg _ (dif_pos h)

theorem exec_roll_of_beyond {arg : BitVec 12} (h : ¬ arg.toNat < 16) (s : State) :
    exec (.roll arg) s = .next { s with svc := { s.svc with command := commandWord 3 arg, reply := statusReply s .range } } :=
  congrArg _ (dif_neg h)

/-! ### The snapshot (R174) -/

theorem eepromReadComplete_svc (s : State) : NextHas (fun t => t.svc = s.svc) (exec .eepromReadComplete s) := by
  refine nextHas_ite rfl fun _ => ?_
  simp only
  split
  · rw [enterJoining_takeSettings]
    simp only
    (repeat' split) <;> simp [joiningStation_rest]
  · rw [enterPassOnly_finishRead]
    split <;> simp [passOnlyStation]

/-- The commands of the service line, and the two others that act on it. -/
def touchesService : Instr → Bool
  | .powerOnReset _ _ _ | .incompleteFrame _ | .nop _ | .item _ | .high _ | .roll _ | .eeaddr _ | .eelo _ | .eehi _ | .eewrite _
  | .eeread _ | .clear _ | .restart _ _ _ | .unknownCommand _ _ | .eepromWriteCompletion => true
  | _ => false

/-- Every other command leaves the service line as it was. -/
theorem exec_svc {c : Instr} (s : State) (hc : touchesService c = false) : NextHas (fun t => t.svc = s.svc) (exec c s) := by
  cases c with
  | powerOnReset | incompleteFrame | nop | item | high | roll | eeaddr | eelo | eehi | eewrite | eeread | clear | restart
  | unknownCommand | eepromWriteCompletion => cases hc
  | eepromReadComplete => exact eepromReadComplete_svc s
  | dlvHold => exact nextHas rfl
  | partialDrop | clashExpiry | silenceExpiry | speedWindowExpiry | triggerPulseEnd | lastTriggerTimeLapse | darkExpiry =>
    exact nextHas_ite rfl fun _ => rfl
  | lossOfLightOrLock | encoderSample => exact nextHas (by simp)
  | inboundUp | alignmentRunEnd | returnWatchExpiry | easeWindowExpiry | easeEntryExpiry | coordinateUpdate | parcelArrival
  | dlvCut => exact nextHas_ite rfl fun _ => by simp
  | lightAndLock | sendCompletion | syncingCharacter | signonTimerExpiry | statusTimerExpiry | indexPulse | beaconTimerExpiry
  | alignmentEnd | seamEdge | cleanExpiry | staleExpiry | removalExpiry | triggerTimeout | lineValidRise | assemblyTimeout
  | dlvTake =>
    refine nextHas ?_
    (repeat' split) <;> simp
  | lineCompletion =>
    refine nextHas_ite rfl fun _ => ?_
    simp only
    (repeat' split) <;> simp

/-- Of the commands that act on the service line, ROLL and a power-on reset alone change the snapshot. -/
theorem exec_snapshot {c : Instr} (s : State) (hroll : ∀ arg, c ≠ .roll arg)
    (hreset : ∀ straps a b, c ≠ .powerOnReset straps a b) : NextHas (fun t => t.svc.snapshot = s.svc.snapshot) (exec c s) := by
  cases hc : touchesService c with
  | false => exact (exec_svc s hc).mono fun t ht => congrArg ServiceLine.snapshot ht
  | true =>
    cases c with
    | powerOnReset straps a b => exact absurd rfl (hreset straps a b)
    | roll arg => exact absurd rfl (hroll arg)
    | incompleteFrame | item | high | eelo | eehi | eeread | clear | unknownCommand => exact nextHas rfl
    | nop | eeaddr | eewrite | eepromWriteCompletion =>
      refine nextHas ?_
      (repeat' split) <;> rfl
    | restart =>
      refine nextHas ?_
      split
      · rfl
      · show (stationRestart _ _ (frame 10 _ s)).svc.snapshot = _
        rw [stationRestart_svc]
        rfl
    | _ => cases hc

/-- Settles O10: ROLL by its argument, every other command, and the items that read the snapshot. -/
theorem rollSnapshot : Obligations.RollSnapshot := by
  refine ⟨fun n arg s hn => ?_, fun arg s h => exec_roll_of_beyond (by omega) s, fun c s t hroll hreset ht => ?_,
    fun straps a b s t ht => ?_, fun s t x h k hk => ?_⟩
  · have hlt : arg.toNat < 16 := hn ▸ n.isLt
    obtain rfl : ⟨arg.toNat, hlt⟩ = n := Fin.ext hn
    exact exec_roll_of_within hlt s
  · obtain ⟨u, hu, hsame⟩ := exec_snapshot s hroll hreset
    cases ht.symm.trans hu
    exact hsame
  · cases ht
    rfl
  · simp only [List.mem_cons, List.not_mem_nil, or_false] at hk
    rcases hk with rfl | rfl | rfl | rfl | rfl | rfl
    · exact congrArg rollItem h
    · exact congrArg (fun e => e.identity.getD 0) h
    · exact congrArg contentsItem h
    · exact congrArg functionsItem h
    · exact congrArg (fun e => contentsHalves e StatusContents.crcFaults StatusContents.linesRefused) h
    · exact congrArg (fun e => contentsHalves e StatusContents.linesMissing StatusContents.brokenLines) h

/-! ### EEADDR, EELO, EEHI and EEWRITE (R175) -/

theorem exec_eeaddr_of_within {arg : BitVec 12} (h : arg.toNat < 128) (s : State) :
    exec (.eeaddr arg) s = .next { s with svc := { s.svc with
      command := commandWord 4 arg, address := ⟨arg.toNat, h⟩, reply := statusReply s .ok } } :=
  congrArg _ (dif_pos h)

theorem exec_eeaddr_of_beyond {arg : BitVec 12} (h : ¬ arg.toNat < 128) (s : State) :
    exec (.eeaddr arg) s = .next { s with svc := { s.svc with command := commandWord 4 arg, reply := statusReply s .range } } :=
  congrArg _ (dif_neg h)

/-- The latch with its low byte replaced. -/
theorem lowByteLoaded (latch : Word16) (arg : BitVec 12) : latch.extractLsb' 8 8 ++ arg.extractLsb' 0 8
    = BitVec.ofNat 16 (latch.toNat / 256 * 256 + arg.toNat % 256) := by
  have hlatch := latch.isLt
  refine BitVec.eq_of_toNat_eq ?_
  rw [append_toNat, extract_toNat, BitVec.extractLsb'_toNat, Nat.shiftRight_zero, BitVec.toNat_ofNat]
  omega

/-- The latch with its high byte replaced. -/
theorem highByteLoaded (latch : Word16) (arg : BitVec 12) : arg.extractLsb' 0 8 ++ latch.extractLsb' 0 8
    = BitVec.ofNat 16 (arg.toNat % 256 * 256 + latch.toNat % 256) := by
  refine BitVec.eq_of_toNat_eq ?_
  rw [append_toNat, extract_zero_toNat, BitVec.extractLsb'_toNat, Nat.shiftRight_zero, BitVec.toNat_ofNat]
  omega

theorem writeBusy_iff (s : State) : writeBusy s = true ↔ s.svc.write.isSome = true ∨ s.store.readStart.isSome = true := by
  rw [writeBusy, Bool.or_eq_true]

theorem writeBusy_of_free {s : State} (hw : s.svc.write = none) (hr : s.store.readStart = none) : ¬ writeBusy s = true := by
  rw [writeBusy_iff, hw, hr]
  simp

theorem exec_eewrite_of_busy {s : State} (h : writeBusy s = true) (arg : BitVec 12) :
    exec (.eewrite arg) s = .next { s with svc := { s.svc with command := commandWord 7 arg, reply := statusReply s .busy } } :=
  congrArg _ (if_pos h)

theorem exec_eewrite_of_protected {s : State} (h : ¬ writeBusy s = true) (ha : s.svc.address = 2 ∨ s.svc.address = 3)
    (arg : BitVec 12) : exec (.eewrite arg) s =
      .next { s with svc := { s.svc with command := commandWord 7 arg, reply := statusReply s .isProtected } } :=
  congrArg _ ((if_neg h).trans (if_pos ha))

/-- The state in which EEWRITE has begun a write of the latch. -/
def writing (arg : BitVec 12) (s : State) : State :=
  { s with svc := { s.svc with
      command := commandWord 7 arg, write := some { address := s.svc.address, value := s.svc.latch, began := s.time } } }

theorem exec_eewrite_of_free {s : State} (h : ¬ writeBusy s = true) (ha : ¬ (s.svc.address = 2 ∨ s.svc.address = 3))
    (arg : BitVec 12) : exec (.eewrite arg) s = .next (replyStatus .ok (writing arg s)) :=
  congrArg _ ((if_neg h).trans (if_neg ha))

/-! ### The completion of a write (R175) -/

/-- The state in which a write is over. -/
def written (w : EepromWrite) (s : State) : State :=
  { s with store := { s.store with eeprom := put s.store.eeprom w.address w.value, image := put s.store.image w.address w.value },
           svc := { s.svc with write := none } }

theorem exec_eepromWriteCompletion_of_some {s : State} {w : EepromWrite} (h : s.svc.write = some w) :
    exec .eepromWriteCompletion s = .next (written w s) := by
  show execEepromWriteCompletion s = _
  rw [execEepromWriteCompletion, h]
  rfl

theorem exec_eepromWriteCompletion_of_none {s : State} (h : s.svc.write = none) : exec .eepromWriteCompletion s = .next s := by
  show execEepromWriteCompletion s = _
  rw [execEepromWriteCompletion, h]

/-- Settles O11: each command by its operand and by what is in progress, then the completion. -/
theorem eepromCommands : Obligations.EepromCommands := by
  refine ⟨fun j arg s hj => ?_, fun arg s h => exec_eeaddr_of_beyond (by omega) s, fun arg s => ?_, fun arg s => ?_,
    fun arg s h => exec_eewrite_of_busy ((writeBusy_iff s).mpr h) arg,
    fun arg s hw hr ha => exec_eewrite_of_protected (writeBusy_of_free hw hr) ha arg, fun arg s hw hr h2 h3 => ?_,
    fun arg s => rfl, fun w s hw => ?_, fun s => exec_eepromWriteCompletion_of_none⟩
  · have hlt : arg.toNat < 128 := hj ▸ j.isLt
    obtain rfl : ⟨arg.toNat, hlt⟩ = j := Fin.ext hj
    exact exec_eeaddr_of_within hlt s
  · rw [← lowByteLoaded]
    rfl
  · rw [← highByteLoaded]
    rfl
  · obtain ⟨-, -, hwriting, -⟩ := statusReply_layout (writing arg s) .ok
    exact ⟨_, exec_eewrite_of_free (writeBusy_of_free hw hr) (not_or.mpr ⟨h2, h3⟩) arg, rfl, hwriting⟩
  · refine ⟨_, exec_eepromWriteCompletion_of_some hw, rfl, put_self _ _ _, put_self _ _ _, fun j hj => ?_⟩
    exact ⟨put_other _ _ _ _ hj.symm, put_other _ _ _ _ hj.symm⟩

end Sys2Proof.Service
end

section
/-! Frames, command words, replies and the hold of the service line (O8). -/
namespace Sys2Proof.Service
open Sys2Proof.Machine Sys2Proof.StripPosition Sys2Proof.StationRoll

/-! ### The command register (R171) -/

theorem shiftIn_concat (w : Word16) (bits : List Bool) (b : Bool) :
    shiftIn w (bits ++ [b]) = shiftIn w bits <<< 1 ||| (if b then 1 else 0) := by
  rw [shiftIn, List.foldl_append]
  rfl

theorem shiftOne_eq (w : Word16) (b : Bool) : w <<< 1 ||| (if b then 1 else 0) = w.shiftConcat b := by
  refine BitVec.eq_of_getLsbD_eq fun i hi => ?_
  cases b <;> cases i <;> simp [BitVec.getLsbD_shiftConcat]

/-- The command register as a number, bit by bit. -/
theorem shiftIn_eq (w : Word16) (bits : List Bool) :
    shiftIn w bits = bits.foldl (fun w b => BitVec.ofNat 16 (2 * w.toNat + b.toNat)) w := by
  have hone (v : Word16) (b : Bool) : v <<< 1 ||| (if b then 1 else 0) = BitVec.ofNat 16 (2 * v.toNat + b.toNat) := by
    refine BitVec.eq_of_toNat_eq ?_
    rw [shiftOne_eq, BitVec.toNat_shiftConcat, Nat.shiftLeft_eq, BitVec.toNat_ofNat, Nat.mul_comm]
  rw [shiftIn, funext fun v => funext (hone v)]

/-- Bit `i` of the register is the bit shifted in `i` bits before the last. -/
theorem shiftIn_getLsbD (w : Word16) (bits : List Bool) {i : Nat} (hi : i < bits.length) (h16 : i < 16) :
    (shiftIn w bits).getLsbD i = bits.getD (bits.length - 1 - i) false := by
  induction bits using List.reverseRecOn generalizing i with
  | nil => exact absurd hi (Nat.not_lt_zero i)
  | append_singleton bits b ih =>
    rw [shiftIn_concat, shiftOne_eq, BitVec.getLsbD_shiftConcat, decide_eq_true h16, Bool.true_and]
    rw [List.length_append, List.length_singleton] at hi ⊢
    cases i with
    | zero =>
      rw [if_pos rfl, List.getD_append_right _ _ _ _ (by omega)]
      simp
    | succ i =>
      rw [if_neg (Nat.succ_ne_zero i), Nat.add_sub_cancel, ih (by omega) (by omega), List.getD_append _ _ _ _ (by omega)]
      congr 1
      omega

/-- The first 16 bits of a frame make its command word, the first bit the most significant. -/
theorem shiftIn_frame {bits : List Bool} (h : 16 ≤ bits.length) (j : Fin 16) :
    (shiftIn 0 (bits.take 16)).getLsbD (15 - j.val) = bits.getD j.val false := by
  have hj := j.isLt
  have hlen : (bits.take 16).length = 16 := by rw [List.length_take]; omega
  rw [shiftIn_getLsbD _ _ (by omega) (by omega), hlen, List.getD_eq_getElem?_getD, List.getElem?_take_of_lt (by omega),
    ← List.getD_eq_getElem?_getD]
  congr 1
  omega

/-! ### Command words (Section 12.3) -/

theorem code_of_word (code : BitVec 4) (arg : BitVec 12) : (code ++ arg).extractLsb' 12 4 = code :=
  BitVec.extractLsb'_append_eq_left

theorem arg_of_word (code : BitVec 4) (arg : BitVec 12) : (code ++ arg).extractLsb' 0 12 = arg := by
  rw [BitVec.extractLsb'_append_eq_of_add_le (by decide), BitVec.extractLsb'_eq_self]

theorem word_of_fields (w : Word16) : commandWord (w.extractLsb' 12 4) (w.extractLsb' 0 12) = w :=
  (BitVec.extractLsb'_append_extractLsb'_eq_extractLsb' (start₁ := 0) (len₁ := 12) (len₂ := 4) (x := w) rfl).trans
    BitVec.extractLsb'_eq_self

/-- A code above 10 names no command (R172). -/
theorem commandOf_unknown {code : BitVec 4} (h : 11 ≤ code.toNat) (arg : BitVec 12) (straps : Station) (opened : OpenParcel) :
    commandOf (code ++ arg) straps opened = .unknownCommand code arg := by
  unfold commandOf
  rw [code_of_word, arg_of_word]
  split
  case h_12 => rfl
  all_goals omega

/-- After its command, a command word stands in the command register (R171). -/
theorem exec_commandOf_command (w : Word16) (straps : Station) (opened : OpenParcel) (s : State) :
    NextHas (fun t => t.svc.command = w) (exec (commandOf w straps opened) s) := by
  have hword {code : BitVec 4} (h : (w.extractLsb' 12 4).toNat = code.toNat) : commandWord code (w.extractLsb' 0 12) = w := by
    rw [← BitVec.eq_of_toNat_eq h, word_of_fields]
  unfold commandOf
  split
  case h_1 h | h_4 h | h_5 h | h_8 h =>
    refine nextHas ?_
    (repeat' split) <;> exact hword h
  case h_2 h | h_3 h | h_6 h | h_7 h | h_9 h | h_10 h => exact nextHas (hword h)
  case h_11 h =>
    refine nextHas ?_
    split
    · exact hword h
    · show (stationRestart straps opened (frame 10 _ s)).svc.command = w
      rw [stationRestart_svc]
      exact hword h
  case h_12 => exact nextHas (word_of_fields w)

/-! ### Commands on their way to a step -/

theorem step_withFrame_of_empty {s : State} (h : s.pending = []) (bits : List Bool) (straps : Station) (opened : OpenParcel) :
    step (s.withFrame bits straps opened) = exec (frameCommand bits straps opened) s := by
  have hs : s = { s with pending := [] } := by rw [← h]
  rw [hs]
  rfl

theorem step_withFrame_of_cons {s : State} {c : Instr} {rest : List Instr} (h : s.pending = c :: rest) (bits : List Bool)
    (straps : Station) (opened : OpenParcel) : step (s.withFrame bits straps opened)
      = exec c { s with pending := rest ++ [frameCommand bits straps opened] } := by
  rw [State.withFrame, h]
  rfl

theorem decodeTableWord_of_word {w : Nat} (h : w < 65536) :
    decodeTableWord 16 w = some (commandOf (BitVec.ofNat 16 w) 0 none) := if_pos ⟨rfl, h⟩

theorem decodeTableWord_of_other {nbits : Nat} (h : nbits ≠ 16) (w : Nat) : decodeTableWord nbits w = none :=
  if_neg fun hboth => h hboth.1

theorem step_withFetchWord {w : Nat} (h : w < 65536) (s : State) :
    step (s.withFetchWord 16 w) = exec (commandOf (BitVec.ofNat 16 w) 0 none) s := by
  rw [State.withFetchWord, decodeTableWord_of_word h]
  rfl

/-! ### SV_OUT (R171) -/

theorem svOut_of_past {n : Nat} (h : 16 ≤ n) (s : State) : svOut s true n = false := by
  rw [svOut, decide_eq_false (by omega)]
  rfl

theorem svOut_of_within {n : Nat} (h : n < 16) (s : State) : svOut s true n = s.svc.reply.getLsbD (15 - n) := by
  rw [svOut, BitVec.getMsbD_eq_getLsbD, decide_eq_true h]
  rfl

/-! ### The hold (R173) -/

theorem exec_high (arg : BitVec 12) (s : State) : exec (.high arg) s = .next { s with svc := { s.svc with
    command := commandWord 2 arg, holdPending := false, reply := BitVec.ofNat 16 (s.svc.hold.toNat / 2 ^ 16) } } := by
  rw [← highHalf_eq]
  rfl

theorem exec_item (arg : BitVec 12) (s : State) : exec (.item arg) s = .next { s with svc := { s.svc with
    command := commandWord 1 arg, holdPending := true, hold := serviceItem s (arg.toNat / 64) (arg.toNat % 64),
    reply := BitVec.ofNat 16 (serviceItem s (arg.toNat / 64) (arg.toNat % 64)).toNat } } := by
  rw [← lowHalf_eq]
  rfl

theorem exec_nop (arg : BitVec 12) (s : State) : exec (.nop arg) s = .next { s with svc := { s.svc with
    command := commandWord 0 arg, holdPending := false,
    reply := if s.svc.holdPending then BitVec.ofNat 16 (s.svc.hold.toNat / 2 ^ 16) else statusReply s .ok } } := by
  show execNop arg s = _
  rw [execNop, ← highHalf_eq]
  cases h : s.svc.holdPending with
  | true => rfl
  | false =>
    rw [if_neg Bool.false_ne_true, if_neg Bool.false_ne_true, ← h]
    rfl

/-- Settles O8: the replies, the frame and its word, the word's command, its way to a step, SV_OUT and the status reply. -/
theorem serviceReplies : Obligations.ServiceReplies := by
  refine ⟨fun arg s => ⟨exec_nop arg s, exec_high arg s, exec_item arg s⟩, fun code arg s => rfl,
    fun bits s => ⟨_, rfl, rfl, shiftIn_eq _ _⟩,
    fun bits straps opened => ⟨fun h => if_pos h, fun h => ⟨_, if_neg (Nat.not_lt.mpr h), shiftIn_frame h⟩⟩,
    fun arg straps opened => ⟨?_, ?_, ?_, ?_, ?_, ?_, ?_, ?_, ?_, ?_, ?_,
      fun code h => commandOf_unknown h arg straps opened⟩,
    fun w straps opened s => exec_commandOf_command w straps opened s,
    fun bits straps opened s => ⟨fun h => step_withFrame_of_empty h bits straps opened,
      fun c rest h => step_withFrame_of_cons h bits straps opened⟩,
    fun nbits w s => ⟨?word, fun h => ⟨decodeTableWord_of_other h w, ?other⟩⟩, rfl,
    fun s n => ⟨rfl, fun h => svOut_of_past h s, fun h => svOut_of_within h s⟩, statusReply_layout⟩
  case word =>
    rintro rfl hw
    exact ⟨decodeTableWord_of_word hw, step_withFetchWord hw s⟩
  case other => rw [State.withFetchWord, decodeTableWord_of_other h w]
  all_goals
    unfold commandOf
    rw [code_of_word, arg_of_word]
    rfl

end Sys2Proof.Service
end

section
/-! The packed items of the service line, field by field (Table 12.6). -/
namespace Sys2Proof.Service
open Sys2Proof.Machine Sys2Proof.Safety

/-! ### Codes (Table 12.4) -/

theorem linkCode_lt (c : LinkState) : c.code < 3 := by cases c <;> decide

theorem encoderCode_lt (c : EncoderState) : c.code < 3 := by cases c <;> decide

theorem rollCode_lt (c : RollCondition) : c.code < 4 := by cases c <;> decide

theorem beaconCode_lt (c : BeaconCondition) : c.code < 3 := by cases c <;> decide

theorem sourceCode_lt (c : PositionSource) : c.code < 32 := by
  cases c with
  | none | loc => decide
  | station n => exact n.isLt.trans (by decide)

theorem followedCode_lt (c : Option Station) : followedCode c < 32 := by
  cases c with
  | none => decide
  | some n => exact n.isLt.trans (by decide)

/-! ### Two halves -/

theorem halves_high {hi v : Nat} (lo : Nat) (h : hi % 65536 = v) : ((halves hi lo).extractLsb' 16 16).toNat = v := by
  rw [halves]
  exact ofNat_field_nat (by decide) (by omega)

theorem halves_low (hi : Nat) {lo v : Nat} (h : lo % 65536 = v) : ((halves hi lo).extractLsb' 0 16).toNat = v := by
  rw [halves]
  exact ofNat_field_nat (by decide) (by omega)

theorem halves_high_word (c : Word16) (lo : Nat) : (halves c.toNat lo).extractLsb' 16 16 = c :=
  BitVec.eq_of_toNat_eq (halves_high lo (Nat.mod_eq_of_lt c.isLt))

theorem halves_low_word (hi : Nat) (c : Word16) : (halves hi c.toNat).extractLsb' 0 16 = c :=
  BitVec.eq_of_toNat_eq (halves_low hi (Nat.mod_eq_of_lt c.isLt))

theorem halves_words (c d : Word16) : halves c.toNat d.toNat = c ++ d := by
  have hc := c.isLt
  have hd := d.isLt
  refine BitVec.eq_of_toNat_eq ?_
  rw [halves, append_toNat, BitVec.toNat_ofNat]
  omega

/-! ### Items 1 and 2 -/

theorem summaryItem_layout (s : State) :
    ((summaryItem s).extractLsb' 0 4).toNat = s.ctl.number.val ∧ ((summaryItem s).extractLsb' 4 3).toNat = s.ctl.state.code
      ∧ (summaryItem s).getLsbD 7 = s.ctl.configValid ∧ ((summaryItem s).extractLsb' 8 2).toNat = s.ring.link.code
      ∧ ((summaryItem s).extractLsb' 10 3).toNat = s.strip.clock.code
      ∧ ((summaryItem s).extractLsb' 13 2).toNat = s.strip.encoder.code
      ∧ ((summaryItem s).extractLsb' 15 5).toNat = s.strip.source.code
      ∧ ((summaryItem s).extractLsb' 20 5).toNat = followedCode s.strip.followed
      ∧ (summaryItem s).getLsbD 25 = s.ease.originating ∧ (summaryItem s).toNat < 2 ^ 26 := by
  have hnumber := s.ctl.number.isLt
  have hstate := FibreRing.stationCode_lt s.ctl.state
  have hvalid := s.ctl.configValid.toNat_lt
  have hlink := linkCode_lt s.ring.link
  have hclock := FibreRing.clockCode_lt s.strip.clock
  have hencoder := encoderCode_lt s.strip.encoder
  have hsource := sourceCode_lt s.strip.source
  have hfollowed := followedCode_lt s.strip.followed
  have hease := s.ease.originating.toNat_lt
  rw [summaryItem]
  refine ⟨ofNat_field_nat ?_ ?_, ofNat_field_nat ?_ ?_, ofNat_bit ?_ ?_, ofNat_field_nat ?_ ?_, ofNat_field_nat ?_ ?_,
    ofNat_field_nat ?_ ?_, ofNat_field_nat ?_ ?_, ofNat_field_nat ?_ ?_, ofNat_bit ?_ ?_, ofNat_toNat_lt ?_⟩
  all_goals omega

theorem faultItem_layout (f : FaultFlags) :
    (faultItem f).getLsbD 0 = f.encoder ∧ (faultItem f).getLsbD 1 = f.seamInput ∧ (faultItem f).getLsbD 2 = f.takeOff
      ∧ (faultItem f).extractLsb' 3 4 = f.cameras ∧ (faultItem f).toNat < 2 ^ 7 := by
  have hencoder := f.encoder.toNat_lt
  have hseam := f.seamInput.toNat_lt
  have htake := f.takeOff.toNat_lt
  have hcameras := f.cameras.isLt
  rw [faultItem]
  refine ⟨ofNat_bit ?_ ?_, ofNat_bit ?_ ?_, ofNat_bit ?_ ?_, ofNat_field ?_ ?_, ofNat_toNat_lt ?_⟩
  all_goals omega

/-! ### Items 3, 20 and 32: the queues, the seams and the take-off unit -/

theorem queueItem_layout {s : State} (x : Nat) (hlines : LinesWithin s) (hcontrol : s.seg.control.length ≤ 16) :
    ((serviceItem s x 3).extractLsb' 0 19).toNat = lineOccupancy s.seg.lines
      ∧ ((serviceItem s x 3).extractLsb' 24 5).toNat = s.seg.control.length
      ∧ (serviceItem s x 3).extractLsb' 19 5 = 0 ∧ (serviceItem s x 3).toNat < 2 ^ 29 := by
  unfold LinesWithin Config.lineCapacity at hlines
  have hitem : serviceItem s x 3 = BitVec.ofNat 32 (lineOccupancy s.seg.lines + 2 ^ 24 * s.seg.control.length) := rfl
  rw [hitem]
  refine ⟨ofNat_field_nat ?_ ?_, ofNat_field_nat ?_ ?_, ofNat_field_zero ?_ ?_, ofNat_toNat_lt ?_⟩
  all_goals omega

theorem seamItem_eq (u : SeamUnit) : seamItem u = BitVec.ofNat 32
    (u.list.length + 2 ^ 8 * (u.latest.map (fun r => r.origin.val)).getD 0 + 2 ^ 12 * u.latest.isSome.toNat) := by
  rw [seamItem]
  cases u.latest with
  | none => rfl
  | some r => exact congrArg _ (Nat.add_assoc _ _ _).symm

theorem seamItem_layout {u : SeamUnit} (h : u.list.length ≤ 8) :
    ((seamItem u).extractLsb' 0 4).toNat = u.list.length
      ∧ ((seamItem u).extractLsb' 8 4).toNat = (u.latest.map (fun r => r.origin.val)).getD 0
      ∧ (seamItem u).getLsbD 12 = u.latest.isSome
      ∧ (seamItem u).extractLsb' 4 4 = 0 ∧ (seamItem u).toNat < 2 ^ 13 := by
  have hsome := u.latest.isSome.toNat_lt
  have horigin : (u.latest.map (fun r => r.origin.val)).getD 0 < 16 := by
    cases u.latest with
    | none => decide
    | some r => exact r.origin.isLt
  rw [seamItem_eq]
  refine ⟨ofNat_field_nat ?_ ?_, ofNat_field_nat ?_ ?_, ofNat_bit ?_ ?_, ofNat_field_zero ?_ ?_, ofNat_toNat_lt ?_⟩
  all_goals omega

theorem assembling_le (u : TakeOffUnit) : assembling u ≤ 32 := by
  have h := List.length_filter_le Option.isSome u.contexts.toList
  rwa [Vector.length_toList] at h

theorem takeOffItem_layout {s : State} (x : Nat) (hfree : s.take.free.length ≤ 512) (hqueue : s.take.queue.length ≤ 128) :
    ((serviceItem s x 32).extractLsb' 0 10).toNat = s.take.free.length
      ∧ ((serviceItem s x 32).extractLsb' 10 6).toNat = assembling s.take
      ∧ ((serviceItem s x 32).extractLsb' 16 8).toNat = s.take.queue.length ∧ (serviceItem s x 32).toNat < 2 ^ 24 := by
  have hassembling := assembling_le s.take
  have hitem : serviceItem s x 32
      = BitVec.ofNat 32 (s.take.free.length + 2 ^ 10 * assembling s.take + 2 ^ 16 * s.take.queue.length) := rfl
  rw [hitem]
  refine ⟨ofNat_field_nat ?_ ?_, ofNat_field_nat ?_ ?_, ofNat_field_nat ?_ ?_, ofNat_toNat_lt ?_⟩
  all_goals omega

/-! ### Items 42 and 45: a beacon entry and a camera -/

theorem beaconItem_layout (e : BeaconEntry) :
    ((beaconItem e).extractLsb' 0 2).toNat = e.condition.code ∧ (beaconItem e).extractLsb' 4 4 = e.hopsUsed
      ∧ (beaconItem e).extractLsb' 16 16 = e.sequence
      ∧ (beaconItem e).extractLsb' 2 2 = 0 ∧ (beaconItem e).extractLsb' 8 8 = 0 := by
  have hcondition := beaconCode_lt e.condition
  have hhops := e.hopsUsed.isLt
  have hsequence := e.sequence.isLt
  rw [beaconItem]
  refine ⟨ofNat_field_nat ?_ ?_, ofNat_field ?_ ?_, ofNat_field ?_ ?_, ofNat_field_zero ?_ ?_, ofNat_field_zero ?_ ?_⟩
  all_goals omega

/-- The thin factor of item 45, 0 with no settings (log 18). -/
def itemThin (s : State) (i : Cam) : Nat := ((s.camSettings i).map CameraSettings.thin).getD 0

theorem cameraItem_eq (s : State) (i : Cam) : cameraItem s i = BitVec.ofNat 32
    (s.cams[i].port.state.code + 2 ^ 4 * s.cams[i].trig.fifo.length + 2 ^ 8 * itemThin s i + 2 ^ 16 * s.cams[i].adm.phase
      + 2 ^ 24 * s.cams[i].adm.thinnedSince.toNat) := by
  rw [cameraItem, itemThin]
  cases s.camSettings i <;> rfl

theorem itemThin_le {s : State} {i : Cam} (h : ∀ t, s.camSettings i = some t → t.thin ≤ 16) : itemThin s i ≤ 16 := by
  rw [itemThin]
  cases ht : s.camSettings i with
  | none => decide
  | some t => exact h t ht

theorem cameraItem_layout {s : State} {i : Cam} (hfifo : s.cams[i].trig.fifo.length ≤ 4) (hphase : s.cams[i].adm.phase < 16)
    (hthin : ∀ t, s.camSettings i = some t → t.thin ≤ 16) :
    ((cameraItem s i).extractLsb' 0 3).toNat = s.cams[i].port.state.code
      ∧ ((cameraItem s i).extractLsb' 4 3).toNat = s.cams[i].trig.fifo.length
      ∧ ((cameraItem s i).extractLsb' 8 5).toNat = itemThin s i
      ∧ ((cameraItem s i).extractLsb' 16 4).toNat = s.cams[i].adm.phase
      ∧ (cameraItem s i).extractLsb' 24 8 = s.cams[i].adm.thinnedSince
      ∧ (cameraItem s i).getLsbD 3 = false ∧ (cameraItem s i).getLsbD 7 = false
      ∧ (cameraItem s i).extractLsb' 13 3 = 0 ∧ (cameraItem s i).extractLsb' 20 4 = 0 := by
  have hstate := FibreRing.portCode_lt s.cams[i].port.state
  have hthin := itemThin_le hthin
  have hsince := s.cams[i].adm.thinnedSince.isLt
  have hfalse : false.toNat = 0 := rfl
  rw [cameraItem_eq]
  refine ⟨ofNat_field_nat ?_ ?_, ofNat_field_nat ?_ ?_, ofNat_field_nat ?_ ?_, ofNat_field_nat ?_ ?_, ofNat_field ?_ ?_,
    ofNat_bit ?_ ?_, ofNat_bit ?_ ?_, ofNat_field_zero ?_ ?_, ofNat_field_zero ?_ ?_⟩
  all_goals omega

/-! ### Items 50, 52 and 56: the roll snapshot -/

theorem rollItem_layout (e : RollEntry) :
    ((rollItem e).extractLsb' 0 2).toNat = e.condition.code ∧ (rollItem e).getLsbD 2 = e.lastSequence.isSome
      ∧ (rollItem e).extractLsb' 8 8 = e.missed ∧ (rollItem e).extractLsb' 16 16 = e.lastSequence.getD 0
      ∧ (rollItem e).extractLsb' 3 5 = 0 := by
  have hcondition := rollCode_lt e.condition
  have hsome := e.lastSequence.isSome.toNat_lt
  have hmissed := e.missed.isLt
  have hsequence := (e.lastSequence.getD 0).isLt
  rw [rollItem]
  refine ⟨ofNat_field_nat ?_ ?_, ofNat_bit ?_ ?_, ofNat_field ?_ ?_, ofNat_field ?_ ?_, ofNat_field_zero ?_ ?_⟩
  all_goals omega

theorem itemFollowed_eq (b : Byte) : itemFollowed b = (if b = 0xFF then 31#5 else b.extractLsb' 0 5).toNat := by
  rw [itemFollowed]
  split
  · rfl
  · exact (lowField_toNat (n := 5) b).symm

theorem contentsItem_of_none {e : RollEntry} (h : e.contents = none) : contentsItem e = 0 := by
  rw [contentsItem, h]

theorem contentsItem_of_some {e : RollEntry} {c : StatusContents} (h : e.contents = some c) : contentsItem e = BitVec.ofNat 32
    ((c.stationState.extractLsb' 0 3).toNat + 2 ^ 3 * (c.clockState.extractLsb' 0 3).toNat
      + 2 ^ 6 * (if c.followed = 0xFF then 31#5 else c.followed.extractLsb' 0 5).toNat
      + 2 ^ 11 * (c.portStates.extractLsb' 0 3).toNat + 2 ^ 14 * (c.portStates.extractLsb' 4 3).toNat
      + 2 ^ 17 * (c.portStates.extractLsb' 8 3).toNat + 2 ^ 20 * (c.portStates.extractLsb' 12 3).toNat
      + 2 ^ 23 * (c.queueFill.extractLsb' 0 7).toNat + 2 ^ 30 * (c.easeOriginating.getLsbD 0).toNat + 2 ^ 31) := by
  have hease : (c.easeOriginating.getLsbD 0).toNat = c.easeOriginating.toNat % 2 := by
    rw [BitVec.getLsbD, Nat.toNat_testBit, Nat.pow_zero, Nat.div_one]
  rw [contentsItem, h, hease, lowField_toNat c.stationState, lowField_toNat c.clockState, lowField_toNat c.queueFill,
    ← itemFollowed_eq]
  rfl

theorem contentsItem_layout {e : RollEntry} {c : StatusContents} (h : e.contents = some c) :
    (contentsItem e).extractLsb' 0 3 = c.stationState.extractLsb' 0 3
      ∧ (contentsItem e).extractLsb' 3 3 = c.clockState.extractLsb' 0 3
      ∧ (contentsItem e).extractLsb' 6 5 = (if c.followed = 0xFF then 31#5 else c.followed.extractLsb' 0 5)
      ∧ (∀ i : Cam, (contentsItem e).extractLsb' (3 * i.val + 11) 3 = c.portStates.extractLsb' (4 * i.val) 3)
      ∧ (contentsItem e).extractLsb' 23 7 = c.queueFill.extractLsb' 0 7
      ∧ (contentsItem e).getLsbD 30 = c.easeOriginating.getLsbD 0 ∧ (contentsItem e).getLsbD 31 = true := by
  have hstate := (c.stationState.extractLsb' 0 3).isLt
  have hclock := (c.clockState.extractLsb' 0 3).isLt
  have hfollowed := (if c.followed = 0xFF then 31#5 else c.followed.extractLsb' 0 5).isLt
  have hport0 := (c.portStates.extractLsb' 0 3).isLt
  have hport1 := (c.portStates.extractLsb' 4 3).isLt
  have hport2 := (c.portStates.extractLsb' 8 3).isLt
  have hport3 := (c.portStates.extractLsb' 12 3).isLt
  have hfill := (c.queueFill.extractLsb' 0 7).isLt
  have hease := (c.easeOriginating.getLsbD 0).toNat_lt
  have htrue : true.toNat = 1 := rfl
  rw [contentsItem_of_some h]
  refine ⟨ofNat_field ?_ ?_, ofNat_field ?_ ?_, ofNat_field ?_ ?_, fun i => ?_, ofNat_field ?_ ?_, ofNat_bit ?_ ?_,
    ofNat_bit ?_ ?_⟩
  case refine_7 =>
    match i with
    | 0 => exact ofNat_field (a := 11) (c := c.portStates.extractLsb' 0 3) (by decide) (by omega)
    | 1 => exact ofNat_field (a := 14) (c := c.portStates.extractLsb' 4 3) (by decide) (by omega)
    | 2 => exact ofNat_field (a := 17) (c := c.portStates.extractLsb' 8 3) (by decide) (by omega)
    | 3 => exact ofNat_field (a := 20) (c := c.portStates.extractLsb' 12 3) (by decide) (by omega)
  all_goals omega

theorem functionsItem_of_none {e : RollEntry} (h : e.functions = none) : functionsItem e = 0 := by
  rw [functionsItem, h]

theorem functionsItem_layout {e : RollEntry} {f : Functions} (h : e.functions = some f) :
    (functionsItem e).extractLsb' 0 4 = f.cameras ∧ (functionsItem e).getLsbD 4 = f.encoder
      ∧ (functionsItem e).getLsbD 5 = f.seamInput ∧ (functionsItem e).getLsbD 6 = f.takeOff
      ∧ (functionsItem e).getLsbD 7 = true ∧ (functionsItem e).toNat < 2 ^ 8 := by
  have hcameras := f.cameras.isLt
  have hencoder := f.encoder.toNat_lt
  have hseam := f.seamInput.toNat_lt
  have htake := f.takeOff.toNat_lt
  have htrue : true.toNat = 1 := rfl
  rw [functionsItem, h]
  refine ⟨ofNat_field ?_ ?_, ofNat_bit ?_ ?_, ofNat_bit ?_ ?_, ofNat_bit ?_ ?_, ofNat_bit ?_ ?_, ofNat_toNat_lt ?_⟩
  all_goals omega

theorem functionsItem_lt (e : RollEntry) : (functionsItem e).toNat < 2 ^ 8 := by
  cases h : e.functions with
  | none => rw [functionsItem_of_none h]; decide
  | some f =>
    obtain ⟨-, -, -, -, -, hlt⟩ := functionsItem_layout h
    exact hlt

theorem contentsHalves_of_none {e : RollEntry} (h : e.contents = none) (hi lo : StatusContents → Word16) :
    contentsHalves e hi lo = 0 := by
  rw [contentsHalves, h]

theorem contentsHalves_of_some {e : RollEntry} {c : StatusContents} (h : e.contents = some c)
    (hi lo : StatusContents → Word16) : contentsHalves e hi lo = hi c ++ lo c := by
  rw [contentsHalves, h, ← halves_words]

end Sys2Proof.Service
end

section
/-! Every service item by its number and its index (O9). -/
namespace Sys2Proof.Service
open Sys2Proof.Machine Sys2Proof.Safety

/-! ### Items of a station or a camera (R173) -/

theorem stationItem_val (n : Station) (f : Station → Word32) : stationItem n.val f = f n := dif_pos n.isLt

theorem stationItem_of_beyond {x : Nat} (h : 16 ≤ x) (f : Station → Word32) : stationItem x f = 0 := dif_neg (by omega)

theorem cameraItemAt_val (i : Cam) (f : Cam → Word32) : cameraItemAt i.val f = f i := dif_pos i.isLt

theorem cameraItemAt_of_beyond {x : Nat} (h : 4 ≤ x) (f : Cam → Word32) : cameraItemAt x f = 0 := dif_neg (by omega)

/-- The items of a station's entries. -/
theorem serviceItem_station (s : State) (x : Nat) :
    serviceItem s x 42 = stationItem x (fun n => beaconItem s.strip.table[n])
      ∧ serviceItem s x 43 = stationItem x (fun n => s.strip.table[n].coord.setWidth 32)
      ∧ serviceItem s x 44 = stationItem x (fun n => easeItem s.time s.ease.table[n])
      ∧ serviceItem s x 55 = stationItem x (fun n => BitVec.ofNat 32 (s.strip.table[n].coord.toNat / 2 ^ 32)) :=
  ⟨rfl, rfl, rfl, rfl⟩

/-- The items of a camera, but its counters. -/
theorem serviceItem_camera (s : State) (x : Nat) :
    serviceItem s x 45 = cameraItemAt x (cameraItem s)
      ∧ serviceItem s x 46 = cameraItemAt x (fun i => halves s.cams[i].port.lastLength (s.cams[i].port.locked.getD 0))
      ∧ serviceItem s x 47 = cameraItemAt x (fun i => s.cams[i].trig.coil.setWidth 32)
      ∧ serviceItem s x 48 = cameraItemAt x (fun i => s.cams[i].trig.current) :=
  ⟨rfl, rfl, rfl, rfl⟩

/-! ### The counters of item 49 -/

theorem serviceItem_counter (s : State) (i : Cam) {k : Nat} (h : k < 16) :
    serviceItem s (i.val * 16 + k) 49 = cameraCounter s.cams[i] k := by
  have hcam : (i.val * 16 + k) / 16 = i.val := by omega
  have hcounter : (i.val * 16 + k) % 16 = k := by omega
  show cameraItemAt ((i.val * 16 + k) / 16) (fun j => cameraCounter s.cams[j] ((i.val * 16 + k) % 16)) = _
  rw [hcam, hcounter, cameraItemAt_val]

theorem cameraCounter_of_beyond (c : Camera) {k : Nat} (h : 10 < k) : cameraCounter c k = 0 := by
  obtain ⟨m, rfl⟩ : ∃ m, k = m + 11 := ⟨k - 11, by omega⟩
  rfl

theorem serviceItem_counter_of_beyond (s : State) {x : Nat} (h : 64 ≤ x ∨ 10 < x % 16) : serviceItem s x 49 = 0 := by
  show cameraItemAt (x / 16) (fun i => cameraCounter s.cams[i] (x % 16)) = 0
  rcases h with hcam | hcounter
  · exact cameraItemAt_of_beyond (by omega) _
  · rw [cameraItemAt]
    split
    · exact cameraCounter_of_beyond _ hcounter
    · rfl

/-! ### Items made of one register or two -/

/-- Item 12: the high parts of the estimate and the coordinate. -/
theorem serviceItem_highParts (s : State) (x : Nat) :
    serviceItem s x 12 = BitVec.ofNat 32 (s.strip.xhat.toNat / 2 ^ 32 * 2 ^ 16 + s.strip.x.toNat / 2 ^ 32) := by
  have hxhat := s.strip.xhat.isLt
  have hx := s.strip.x.isLt
  show halves _ _ = _
  rw [halves, Nat.mod_eq_of_lt (by omega), Nat.mod_eq_of_lt (by omega)]
  rfl

/-- Item 33: the word position, and the word count of the record at the head. -/
theorem serviceItem_delivery (s : State) (x : Nat) :
    serviceItem s x 33 = halves s.dlv.position ((s.take.queue.head?.map wordCount).getD 0) := by
  refine congrArg (halves s.dlv.position) ?_
  cases s.take.queue <;> rfl

theorem serviceItem_limit_of_none {s : State} (h : lineLimit s.ease = none) (x : Nat) : serviceItem s x 30 = 0xFFFFFFFF := by
  unfold serviceItem
  rw [h]
  rfl

theorem serviceItem_limit_of_some {s : State} {l : Nat} (h : lineLimit s.ease = some l) (x : Nat) :
    serviceItem s x 30 = BitVec.ofNat 32 l := by
  unfold serviceItem
  rw [h]
  rfl

theorem easeItem_low {now : Time} {e : EaseEntry} {n : Nat} (h : (if e.live then (e.expiry - now).toNat else 0) = n)
    (hn : n < 65536) : ((easeItem now e).extractLsb' 0 16).toNat = n := by
  rw [easeItem, h]
  exact halves_low _ (Nat.mod_eq_of_lt hn)

theorem serviceItem_of_beyond (s : State) (x : Nat) {number : Nat} (h : 58 < number) : serviceItem s x number = 0 := by
  obtain ⟨n, rfl⟩ : ∃ n, number = n + 59 := ⟨number - 59, by omega⟩
  rfl

/-- The bits that Table 12.6 does not list are 0. -/
theorem unlisted_bits (s : State) (n : Station) (i : Cam) (x : Nat) :
    (serviceItem s x 1).toNat < 2 ^ 26 ∧ (serviceItem s x 2).toNat < 2 ^ 7
    ∧ (LinesWithin s → s.seg.control.length ≤ 16 →
        (serviceItem s x 3).extractLsb' 19 5 = 0 ∧ (serviceItem s x 3).toNat < 2 ^ 29)
    ∧ (s.seam.list.length ≤ 8 → (serviceItem s x 20).extractLsb' 4 4 = 0 ∧ (serviceItem s x 20).toNat < 2 ^ 13)
    ∧ (s.take.free.length ≤ 512 → s.take.queue.length ≤ 128 → (serviceItem s x 32).toNat < 2 ^ 24)
    ∧ (serviceItem s n.val 42).extractLsb' 2 2 = 0 ∧ (serviceItem s n.val 42).extractLsb' 8 8 = 0
    ∧ (s.cams[i].trig.fifo.length ≤ 4 → s.cams[i].adm.phase < 16 → (∀ t, s.camSettings i = some t → t.thin ≤ 16) →
        (serviceItem s i.val 45).getLsbD 3 = false ∧ (serviceItem s i.val 45).getLsbD 7 = false
        ∧ (serviceItem s i.val 45).extractLsb' 13 3 = 0 ∧ (serviceItem s i.val 45).extractLsb' 20 4 = 0)
    ∧ (serviceItem s x 50).extractLsb' 3 5 = 0 ∧ (serviceItem s x 56).toNat < 2 ^ 8 := by
  obtain ⟨-, -, -, -, -, -, -, -, -, hsummary⟩ := summaryItem_layout s
  obtain ⟨-, -, -, -, hfaults⟩ := faultItem_layout s.store.faults
  obtain ⟨-, -, -, hbeacon2, hbeacon8⟩ := beaconItem_layout s.strip.table[n]
  obtain ⟨-, -, -, -, hroll⟩ := rollItem_layout s.svc.snapshot
  obtain ⟨hbeaconItem, -, -, -⟩ := serviceItem_station s n.val
  obtain ⟨hcameraItem, -, -, -⟩ := serviceItem_camera s i.val
  rw [hbeaconItem, hcameraItem, stationItem_val, cameraItemAt_val]
  refine ⟨hsummary, hfaults, fun hlines hcontrol => ?_, fun hlist => ?_, fun hfree hqueue => ?_, hbeacon2, hbeacon8,
    fun hfifo hphase hthin => ?_, hroll, functionsItem_lt s.svc.snapshot⟩
  · obtain ⟨-, -, hgap, hlt⟩ := queueItem_layout x hlines hcontrol
    exact ⟨hgap, hlt⟩
  · obtain ⟨-, -, -, hgap, hlt⟩ := seamItem_layout hlist
    exact ⟨hgap, hlt⟩
  · obtain ⟨-, -, -, hlt⟩ := takeOffItem_layout x hfree hqueue
    exact hlt
  · obtain ⟨-, -, -, -, -, hgaps⟩ := cameraItem_layout hfifo hphase hthin
    exact hgaps

/-- Settles O9: the codes, the bits that no field lists, and each item by its number. -/
theorem serviceItemValues : Obligations.ServiceItemValues := by
  refine ⟨⟨rfl, rfl, rfl, rfl, rfl, rfl, rfl, rfl, rfl, rfl, fun n => ⟨rfl, rfl⟩⟩, unlisted_bits,
    fun s x => ⟨rfl, rfl, rfl, rfl, rfl, rfl, rfl, rfl, rfl, serviceItem_highParts s x, rfl,
      BitVec.toInt_signExtend_of_le (by decide), rfl, rfl, rfl, rfl, rfl, rfl, rfl, rfl, rfl, rfl, rfl, rfl, rfl, rfl, rfl, rfl,
      rfl, rfl, rfl, rfl, rfl,
      ?stations, ?cameras, ?summary, ?faults, ?beacons, ?snapshot, rfl, rfl, ?queues, ?highest, ?coil, ?seams, rfl, rfl,
      ?unlimited, ?limited, ?takeOff, ?position, ?noRecord, ?record, ?eases, ?camera, ?lengths, ?noContents, ?contents,
      ?noFunctions, ?functions, ?noStation, ?noCamera, serviceItem_counter_of_beyond s, fun _ => serviceItem_of_beyond s x⟩⟩
  case stations =>
    intro n
    obtain ⟨-, hcoord, -, hhigh⟩ := serviceItem_station s n.val
    exact ⟨hcoord.trans (stationItem_val n _), hhigh.trans (stationItem_val n _)⟩
  case cameras =>
    intro i
    have hcounter {k : Nat} (h : k < 16) := serviceItem_counter s i h
    obtain ⟨-, -, hcoil, hcurrent⟩ := serviceItem_camera s i.val
    exact ⟨hcoil.trans (cameraItemAt_val i _), hcurrent.trans (cameraItemAt_val i _),
      hcounter (k := 0) (by decide), hcounter (k := 1) (by decide),
      hcounter (k := 2) (by decide), hcounter (k := 3) (by decide), hcounter (k := 4) (by decide), hcounter (k := 5) (by decide),
      hcounter (k := 6) (by decide), hcounter (k := 7) (by decide), hcounter (k := 8) (by decide), hcounter (k := 9) (by decide),
      hcounter (k := 10) (by decide)⟩
  case summary =>
    obtain ⟨hnumber, hstate, hvalid, hlink, hclock, hencoder, hsource, hfollowed, hease, -⟩ := summaryItem_layout s
    exact ⟨hnumber, hstate, hvalid, hlink, hclock, hencoder, hsource, hfollowed, hease⟩
  case faults =>
    obtain ⟨hencoder, hseam, htake, hcameras, -⟩ := faultItem_layout s.store.faults
    exact ⟨hencoder, hseam, htake, hcameras⟩
  case beacons =>
    rintro n _ rfl
    obtain ⟨hcondition, hhops, hsequence, -⟩ := beaconItem_layout s.strip.table[n]
    obtain ⟨hitem, -, -, -⟩ := serviceItem_station s n.val
    rw [hitem, stationItem_val]
    exact ⟨hcondition, hhops, hsequence⟩
  case snapshot =>
    rintro _ rfl
    obtain ⟨hcondition, hpresent, hmissed, hsequence, -⟩ := rollItem_layout s.svc.snapshot
    exact ⟨hcondition, hpresent, hmissed, hsequence⟩
  case queues =>
    intro hlines hcontrol
    obtain ⟨hoccupancy, hlength, -⟩ := queueItem_layout x hlines hcontrol
    exact ⟨hoccupancy, hlength⟩
  case highest => exact halves_high_word s.seam.highest _
  case coil => exact halves_low_word _ (latestCoil s.seam)
  case seams =>
    intro hlist
    obtain ⟨hlength, horigin, hlatest, -⟩ := seamItem_layout hlist
    exact ⟨hlength, horigin, hlatest⟩
  case unlimited => exact fun hnone => serviceItem_limit_of_none (lineLimit_eq_none hnone) x
  case limited =>
    intro n hlive hleast
    have hshare := s.ease.table[n].share.isLt
    rw [serviceItem_limit_of_some (lineLimit_eq_some hlive hleast), BitVec.toNat_ofNat]
    exact Nat.mod_eq_of_lt (by omega)
  case takeOff =>
    intro hfree hqueue
    obtain ⟨hblocks, hcontexts, hlength, -⟩ := takeOffItem_layout x hfree hqueue
    exact ⟨hblocks, hcontexts, hlength⟩
  case position => exact fun h => halves_high _ (Nat.mod_eq_of_lt h)
  case noRecord =>
    intro h
    rw [serviceItem_delivery, h]
    exact halves_low _ rfl
  case record =>
    intro r rest h hcount
    rw [serviceItem_delivery, h]
    exact halves_low _ (Nat.mod_eq_of_lt hcount)
  case eases =>
    rintro n _ rfl
    obtain ⟨-, -, hitem, -⟩ := serviceItem_station s n.val
    rw [hitem, stationItem_val]
    exact ⟨halves_high_word _ _, fun hdead => easeItem_low (if_neg (ne_true_of_eq_false hdead)) (by decide),
      fun hlive hsoon => easeItem_low (if_pos hlive) (by omega)⟩
  case camera =>
    rintro i _ rfl hfifo hphase hthin
    obtain ⟨hstate, hlength, hfactor, hthinning, hsince, -⟩ := cameraItem_layout hfifo hphase hthin
    obtain ⟨hitem, -, -, -⟩ := serviceItem_camera s i.val
    rw [hitem, cameraItemAt_val]
    exact ⟨hstate, hlength, hfactor, hthinning, hsince⟩
  case lengths =>
    intro i hlast hlocked
    obtain ⟨-, hitem, -, -⟩ := serviceItem_camera s i.val
    rw [hitem, cameraItemAt_val]
    exact ⟨halves_high _ (Nat.mod_eq_of_lt hlast), halves_low _ (Nat.mod_eq_of_lt hlocked)⟩
  case noContents =>
    exact fun h => ⟨contentsItem_of_none h, contentsHalves_of_none h _ _, contentsHalves_of_none h _ _⟩
  case contents =>
    intro c h
    obtain ⟨hstate, hclock, hfollowed, hports, hfill, hease, htop⟩ := contentsItem_layout h
    exact ⟨hstate, hclock, hfollowed, hports, hfill, hease, htop, contentsHalves_of_some h _ _, contentsHalves_of_some h _ _⟩
  case noFunctions => exact functionsItem_of_none
  case functions =>
    intro f h
    obtain ⟨hcameras, hencoder, hseam, htake, htop, -⟩ := functionsItem_layout h
    exact ⟨hcameras, hencoder, hseam, htake, htop⟩
  case noStation =>
    intro h
    obtain ⟨hbeacon, hcoord, hease, hhigh⟩ := serviceItem_station s x
    rw [hbeacon, hcoord, hease, hhigh]
    exact ⟨stationItem_of_beyond h _, stationItem_of_beyond h _, stationItem_of_beyond h _, stationItem_of_beyond h _⟩
  case noCamera =>
    intro h
    obtain ⟨hcamera, hlengths, hcoil, hcurrent⟩ := serviceItem_camera s x
    rw [hcamera, hlengths, hcoil, hcurrent]
    exact ⟨cameraItemAt_of_beyond h _, cameraItemAt_of_beyond h _, cameraItemAt_of_beyond h _, cameraItemAt_of_beyond h _⟩

end Sys2Proof.Service
end

section
/-! A command runs from the front of the queue (O1), completes, and takes no station time (O2). -/
namespace Sys2Proof.Completion
open Sys2Proof.Machine Sys2Proof.StationRoll Sys2Proof.StripPosition

/-! ### The front of the queue -/

/-- Settles O1: the step takes the command off the queue before it runs. -/
theorem frontCommandRuns : Obligations.FrontCommandRuns := by
  intro c rest s h
  rw [step, h]

/-! ### The queue and station time stand -/

/-- `t` has the queue and the station time of `s`. -/
def Standing (s t : State) : Prop := t.pending = s.pending ∧ t.time = s.time

/-- It serves for every state that changes fields of other blocks alone: its queue and its time are those of `s` by definition. -/
theorem Standing.refl (s : State) : Standing s s := ⟨rfl, rfl⟩

theorem Standing.trans {s t u : State} (hst : Standing s t) (htu : Standing t u) : Standing s u := by
  obtain ⟨hqueue, htime⟩ := hst
  obtain ⟨hqueue', htime'⟩ := htu
  exact ⟨hqueue'.trans hqueue, htime'.trans htime⟩

theorem Standing.ite {b : Prop} [Decidable b] {s t u : State} (ht : Standing s t) (hu : Standing s u) :
    Standing s (if b then t else u) := by
  split
  · exact ht
  · exact hu

/-- An event that acts under a condition, and else changes nothing. -/
theorem standing_if {b : Prop} [Decidable b] {s t : State} (h : Standing s t) : Standing s (if b then t else s) :=
  h.ite (.refl s)

/-- The command completes, and the queue and station time stand. -/
def Completes (s : State) : Host.Outcome State Fault Refusal → Prop := NextHas (Standing s)

/-! ### Requests and the end of the EEPROM read -/

theorem placeRequest_standing (r : ControlBody) (s : State) : Standing s (placeRequest r s) := by
  simp [Standing]

theorem joiningStation_standing (s : State) : Standing s (joiningStation s) := by
  obtain ⟨hqueue, -, htime, -⟩ := joiningStation_rest s
  exact ⟨hqueue, htime⟩

/-- The SIGNON request of a JOINING station, with its timer. -/
theorem startSignon_standing (timer : Option Time) (s : State) :
    Standing s (requestSignon { s with ctl := { s.ctl with signonTimer := timer } }) := by
  simp [Standing]

theorem enterJoining_standing (s : State) : Standing s (enterJoining (takeSettings (finishRead s))) := by
  have hstation := joiningStation_standing s
  have hsignon := hstation.trans (startSignon_standing (some s.time) (joiningStation s))
  have hstatus := (hsignon.ite (b := s.ring.link = .up) hstation).trans (placeRequest_standing .status _)
  rw [enterJoining_takeSettings]
  exact .ite (hstatus.trans (by simp [Standing])) hstatus

theorem enterPassOnly_standing (s : State) : Standing s (enterPassOnly (finishRead s)) := by
  have hstation : Standing s (passOnlyStation s) := ⟨rfl, rfl⟩
  rw [enterPassOnly_finishRead]
  exact .trans (.ite (hstation.trans (placeRequest_standing _ _)) hstation) (placeRequest_standing _ _)

theorem stationRestart_standing (straps : Station) (opened : OpenParcel) (s : State) :
    Standing s (stationRestart straps opened s) := by
  simp [Standing, stationRestart]

/-! ### The commands with more than one condition -/

theorem syncingCharacter_completes (c : CharClass) (s : State) : Completes s (exec (.syncingCharacter c) s) := by
  refine nextHas (standing_if ?_)
  split
  · simp [Standing]
  all_goals exact .refl s

theorem parcelArrival_completes (chars : List Byte) (s : State) : Completes s (exec (.parcelArrival chars) s) :=
  nextHas (standing_if (by simp [Standing]))

theorem eepromReadComplete_completes (s : State) : Completes s (exec .eepromReadComplete s) :=
  nextHas (standing_if (.ite (enterJoining_standing s) (enterPassOnly_standing s)))

theorem staleExpiry_completes (n : Station) (s : State) : Completes s (exec (.staleExpiry n) s) :=
  nextHas (standing_if (.ite (by simp [Standing]) (.refl s)))

theorem removalExpiry_completes (n : Station) (s : State) : Completes s (exec (.removalExpiry n) s) :=
  nextHas (standing_if (.ite (by simp [Standing]) (.refl s)))

theorem seamEdge_completes (s : State) : Completes s (exec .seamEdge s) := by
  refine nextHas ?_
  split
  · exact .refl s
  · exact standing_if (.ite (.refl s) (.refl s))

theorem lineCompletion_completes (i : Cam) (pixels : List (BitVec 12)) (s : State) :
    Completes s (exec (.lineCompletion i pixels) s) := by
  refine nextHas (standing_if (.ite ?_ (.refl s)))
  split
  · simp [Standing]
  · exact .refl s

theorem dlvTake_completes (s : State) : Completes s (exec .dlvTake s) :=
  nextHas (standing_if (.ite (.ite (by simp [Standing]) (.refl s)) (.refl s)))

theorem eewrite_completes (arg : BitVec 12) (s : State) : Completes s (exec (.eewrite arg) s) :=
  nextHas (.ite (.refl s) (.ite (.refl s) (.refl s)))

theorem restart_completes (arg : BitVec 12) (straps : Station) (opened : OpenParcel) (s : State) :
    Completes s (exec (.restart arg straps opened) s) :=
  nextHas (.ite (.refl s) (stationRestart_standing straps opened (frame 10 arg s)))

/-! ### Every command -/

/-- Every command but a power-on reset completes, and the queue and station time stand: what acts on one block leaves them, and
what acts on several calls only what leaves them. -/
theorem exec_completes {c : Instr} (s : State) (hreset : ∀ straps a b, c ≠ .powerOnReset straps a b) :
    Completes s (exec c s) := by
  cases c with
  | powerOnReset straps a b => exact absurd rfl (hreset straps a b)
  -- One block changes, whatever the state.
  | lightAndLock | dlvHold | incompleteFrame | item | high | eelo | eehi | eeread | clear | unknownCommand =>
    exact nextHas (.refl s)
  -- One block changes under a condition.
  | partialDrop | clashExpiry | silenceExpiry | speedWindowExpiry | triggerPulseEnd | lastTriggerTimeLapse | darkExpiry
  | dlvCut => exact nextHas (standing_if (.refl s))
  -- A chain of updates runs, always or under a condition.
  | lossOfLightOrLock | encoderSample => exact nextHas (by simp [Standing])
  | inboundUp | alignmentRunEnd | returnWatchExpiry | easeWindowExpiry | easeEntryExpiry | coordinateUpdate =>
    exact nextHas (standing_if (by simp [Standing]))
  -- A timer or a sending that may not be there, and the test whether its time is over.
  | sendCompletion | signonTimerExpiry | statusTimerExpiry | beaconTimerExpiry =>
    refine nextHas ?_
    split
    · exact .refl s
    · exact standing_if (by simp [Standing])
  -- An event that is due, and settings that may not be held.
  | cleanExpiry | alignmentEnd | triggerTimeout | assemblyTimeout =>
    refine nextHas (standing_if ?_)
    split
    · simp [Standing]
    · exact .refl s
  -- One of several cases, each with one block changed.
  | lineValidRise | nop => exact nextHas (.ite (.refl s) (.refl s))
  | indexPulse | eepromWriteCompletion | roll | eeaddr =>
    refine nextHas ?_
    split <;> exact .refl s
  | syncingCharacter c => exact syncingCharacter_completes c s
  | parcelArrival chars => exact parcelArrival_completes chars s
  | eepromReadComplete => exact eepromReadComplete_completes s
  | staleExpiry n => exact staleExpiry_completes n s
  | removalExpiry n => exact removalExpiry_completes n s
  | seamEdge => exact seamEdge_completes s
  | lineCompletion i pixels => exact lineCompletion_completes i pixels s
  | dlvTake => exact dlvTake_completes s
  | eewrite arg => exact eewrite_completes arg s
  | restart arg straps opened => exact restart_completes arg straps opened s

/-- Settles O2: a power-on reset keeps the queue alone, every other command station time too. -/
theorem everyCommandCompletes : Obligations.EveryCommandCompletes := by
  intro c s
  by_cases hreset : ∀ straps a b, c ≠ .powerOnReset straps a b
  · obtain ⟨t, ht, hqueue, htime⟩ := exec_completes s hreset
    exact ⟨t, ht, hqueue, fun _ => htime⟩
  · push Not at hreset
    obtain ⟨straps, a, b, rfl⟩ := hreset
    exact ⟨_, rfl, rfl, fun h => absurd rfl (h straps a b)⟩

end Sys2Proof.Completion
end
